-- ==== Sys2Proof/Word.lean ====
section
/-! DEFINITION. The word types of the NQ-4: a 64-bit register or code word, a byte, and one bit per lane of a crew of
64 lanes (R11, R61, R62). -/

namespace Sys2Proof

/-- A 64-bit scalar, instruction word or address (R61, R98). -/
abbrev Word := BitVec 64

/-- The smallest addressable unit (R3). -/
abbrev Byte := BitVec 8

/-- One bit per lane, lane 0 in bit 0 (R62); CREWW is 64 on NQ-4 (R11). -/
abbrev Mask := BitVec 64

end Sys2Proof
end

