-- ==== Sys2Proof/Config.lean ====
section
/-! DEFINITION. What an NQ-4 part fixes (its counts) and the free values: opaque constants that stand for what the
specification leaves open, so that no proof can rest on a value of them. -/

namespace Sys2Proof.Config

/-- Crew width of NQ-4 (R11, R64). -/
def creww : Nat := 64
/-- Dies of a package (R8). -/
def dies : Nat := 4
/-- Clusters of a package (R8). -/
def clusters : Nat := 64
/-- Cores of a package (R8). -/
def cores : Nat := 256
/-- Crew slots of a quadrant (R9). -/
def slots : Nat := 8
/-- 4 KiB units of URS in a quadrant: 256 KiB (R9). -/
def unitsPerQuad : Nat := 64
/-- Entries of a die's spawn queue (R28). -/
def spawnQueueSize : Nat := 4096
/-- Records of a cluster's lane-task FIFO (R33). -/
def laneFifoSize : Nat := 4096
/-- Entries of a FIFO bank (R189). -/
def fifoBankSize : Nat := 32768
/-- Copies in flight of a Dolly (R211). -/
def dollyRoom : Nat := 256
/-- Transfers in flight of a fabric engine (R307). -/
def fabricRoom : Nat := 1024
/-- Records of a marker area of 512 KiB, and bytes of a slot (R377). -/
def areaRecords : Nat := 2048
def slotBytes : Nat := 50331648
/-- Sections of the code map (R125). -/
def codeSections : Nat := 4096
/-- Ticks after which an unresolved fault or transfer fails (R27, R215, R311, R364). -/
def replayBound : Nat := 1000000

/-- A free value for a scheduling choice or a bit the rules leave open, one for each reading of the counter (R63, R100). -/
opaque freeChoice : Nat → Nat
/-- Address of the live RCB of a region, in firmware-owned memory (R16); the rules give no address. -/
opaque rcbAddress : Nat → Word
/-- The set of the home LLC slice in which a 1 KiB block lies (R197, R230); the rules give no index. -/
opaque llcSet : Nat → Nat
/-- The home die of a physical address of the package's own memory (R188); the rules give no map. -/
opaque homeDie : Nat → Nat
/-- Usable energy of the capacitor banks in mJ at a slate tick (R340). -/
opaque bankEnergy : Nat → BitVec 16
/-- Core-rail current of a die, in mA, over a slate tick (R347): what the limiter samples. -/
opaque railCurrent : Nat → Nat → Nat
/-- Uncore draw over an interval in mW (R332), as the rail sensors measure it. -/
opaque uncoreDraw : Nat → Nat
/-- Tokens that a ballast unit can use in a tick (R334): by step and unit. -/
opaque ballastUse : Nat → Nat → Nat
/-- SHA-512 of a byte string (R377, R380). -/
opaque sha512 : List Byte → BitVec 512
/-- Does an ECDSA P-521 signature over a message verify under the fused firmware key (R377)? -/
opaque firmwareSigOk : List Byte → List Byte → Bool
/-- The signature under the package's identity key (R380), 132 bytes. -/
opaque identitySign : List Byte → List Byte
/-- SHA-512 of the boot ROM and the serial number of the package (R380). -/
opaque romHash : BitVec 512
opaque serialNumber : BitVec 128
/-- Do the lanes of a port train at the n-th attempt (R303)? -/
opaque lanesTrain : Nat → Nat → Bool
/-- The public half of the ephemeral key pair that this end creates for the n-th key exchange of a port, and this package's
certificate chain (R299). -/
opaque ownKey : Nat → Nat → List Byte
opaque ownCert : List Byte
/-- What the peer of a port offers in the n-th key exchange (R299): key, signature and certificate chain. -/
opaque peerKey : Nat → Nat → List Byte
opaque peerSig : Nat → Nat → List Byte
opaque peerCert : Nat → Nat → List Byte
/-- The device identity key that a certificate chain certifies, if it verifies (R299). -/
opaque certifiedKey : List Byte → Option (List Byte)
/-- Does an ECDSA P-521 signature over a hash verify under a key (R299)? -/
opaque signatureOk : List Byte → BitVec 512 → List Byte → Bool
/-- The ECDH shared secret of this end's ephemeral key of the n-th exchange of a port with the peer's (R299). -/
opaque sharedSecret : Nat → Nat → List Byte → List Byte
/-- The 256-bit key that HKDF with SHA-512 derives from a secret, for the sending or the receiving direction (R299). -/
opaque hkdf : List Byte → Bool → BitVec 256
/-- What has become of a flit on its link, by step and place: taken by the other end, discarded there, or neither yet (R301). -/
opaque flitFate : Nat → Nat → Nat
/-- The checkpoint number the Lantern reloads (R376), by restart. -/
opaque checkpoint : Nat → Word
/-- Is the neighbour of a port present (R293, R294)? -/
opaque neighbourPresent : Nat → Bool
/-- Does a soft error strike an element of the matrix array in a run of a product, by run and element (R265, R266, R268)? -/
opaque softError : Nat → Nat → Bool
/-- The pattern that an element of the matrix array holds after a soft error, which is no input of the machine, by run, element and
the pattern that is right (R265, R266, R268). -/
opaque upset : Nat → Nat → Nat → Nat
/-- Does an access use a translation that a TLB still holds, or walk the table again (R363)? By step and page. -/
opaque tlbHit : Nat → Nat → Bool
/-- Which entry of a mismatched CONT group translates an access (R362). By step and group. -/
opaque contEntry : Nat → Nat → Nat
/-- What a flash write that lost power left (R378). By step and byte. -/
opaque flashByte : Nat → Nat → Byte
/-- What the divergence spill area holds after a spill, whose layout is private (R41). By step and byte. -/
opaque spillByte : Nat → Nat → Byte
/-- What a save leaves in a region's save area, whose layout is private (R57). By step and byte. -/
opaque saveByte : Nat → Nat → Byte

end Sys2Proof.Config
end

