-- ==== Sys2Proof/Syntax.lean ====
section
/-! DEFINITION. The steps of the NQ-4 as syntax: one constructor of Instr for each row of the table of operations and
events. Instruction words carry the fields of their family (R108 to R118); events carry what names the agent and what
an outside party supplies. -/

namespace Sys2Proof

/-- Family R (R110). -/
structure FieldsR where
  ty : BitVec 3
  pred : BitVec 3
  dst : BitVec 8
  sa : BitVec 8
  sb : BitVec 8
  sc : BitVec 8
  bs : BitVec 6
  bv : BitVec 1
  bpos : BitVec 2
  rm : BitVec 2
  md : BitVec 5
  deriving DecidableEq, Repr

/-- Family I (R111). -/
structure FieldsI where
  ty : BitVec 3
  pred : BitVec 3
  dst : BitVec 8
  sa : BitVec 8
  imm : BitVec 32
  deriving DecidableEq, Repr

/-- Family M (R112). Form a reads the low 24 bits as OFF24; form b as XR and OFF16. -/
structure FieldsM where
  ty : BitVec 3
  pred : BitVec 3
  dst : BitVec 8
  base : BitVec 6
  scope : BitVec 3
  ord : BitVec 2
  md : BitVec 5
  off : BitVec 24
  deriving DecidableEq, Repr

/-- Family B, plain form (R113). -/
structure FieldsB where
  ty : BitVec 3
  pred : BitVec 3
  d : BitVec 8
  e : BitVec 8
  off : BitVec 32
  deriving DecidableEq, Repr

/-- Family B, two-target form BJ (R113). -/
structure FieldsBJ where
  ty : BitVec 3
  pred : BitVec 3
  d : BitVec 8
  toff : BitVec 20
  joff : BitVec 20
  deriving DecidableEq, Repr

/-- Family X (R114). -/
structure FieldsX where
  ty : BitVec 3
  pred : BitVec 3
  dst : BitVec 8
  fb : BitVec 6
  ta : BitVec 6
  tb : BitVec 6
  ps : BitVec 6
  ra : BitVec 1
  rb : BitVec 1
  mode : BitVec 2
  md : BitVec 12
  deriving DecidableEq, Repr

/-- Family S (R115). -/
structure FieldsS where
  ty : BitVec 3
  pred : BitVec 3
  dst : BitVec 8
  sys : BitVec 12
  ss : BitVec 6
  imm : BitVec 22
  deriving DecidableEq, Repr

/-- One compact operation, half of a pair word (R116). -/
structure Half where
  cop : BitVec 6
  ct : BitVec 2
  cd : BitVec 8
  ca : BitVec 8
  cb : BitVec 8
  deriving DecidableEq, Repr

/-- A pair word: the low half is written first (R116). -/
structure FieldsP where
  hi : Half
  lo : Half
  deriving DecidableEq, Repr

/-- Which path of a crew (R39): its only one, or one of its two peers. -/
inductive PathSel where
  | single
  | taken
  | notTaken
  deriving DecidableEq, Repr

/-- A path of the package: a crew's identity and the path. -/
structure PathRef where
  crew : Nat
  sel : PathSel
  deriving DecidableEq, Repr

/-- What a replayable or migration fault holds (R215, R27, R311, R364). -/
inductive HoldRef where
  | path (r : PathRef)
  | copy (id : Nat)
  | store (region : Nat)
  | incoming (id : Nat)
  deriving DecidableEq, Repr

/-- Traffic class of a transfer (R304, R306). -/
inductive XferClass where
  | rel
  | ord
  | lossy
  deriving DecidableEq, Repr

/-- Element type of a reduction (R306). -/
inductive RedType where
  | f32
  | bf16
  | i32
  | f64
  deriving DecidableEq, Repr

/-- What a transfer into this package carries in its header (R309, R312, R314), the tick of its issue among it (R311). -/
structure XferHdr where
  id : Nat
  src : BitVec 10
  cls : XferClass
  seq : Nat
  dst : Word
  len : Nat
  cnta : Word
  maska : Word
  deadline : Word
  red : Option RedType
  rank : BitVec 6
  since : Nat := 0
  deriving DecidableEq, Repr

/-- A remote atomic as its request carries it (R315). -/
structure AtomReq where
  id : Nat
  src : BitVec 10
  addr : Word
  ty : BitVec 3
  op : BitVec 4
  x : Word
  since : Nat := 0
  deriving DecidableEq, Repr

/-- The fields of a cue message (R336). -/
structure CueMsg where
  group : BitVec 16
  src : BitVec 32
  start : Nat
  rise : Nat
  dur : Nat
  deriving DecidableEq, Repr

/-- What a packet carries (R304). -/
inductive Msg where
  | putData (h : XferHdr) (off : Nat) (data : List Byte)
  | lossyHeader (h : XferHdr)
  | lossyFlit (h : XferHdr) (block flit : Nat) (data : List Byte)
  | getRequest (id : Nat) (src : BitVec 10) (addr : Word) (len : Nat)
  | getData (id off : Nat) (data : List Byte)
  | sliceRequest (r : PathRef) (run : Nat) (src : BitVec 10) (opB : Bool) (q : Nat) (addr : Word) (row : Nat)
  | sliceData (r : PathRef) (run : Nat) (opB : Bool) (q : Nat) (data : List Byte)
  | sliceFailed (r : PathRef) (run : Nat) (opB : Bool) (q : Nat) (cause : BitVec 7)
  | ack (id : Nat)
  | failed (id : Nat) (cause : BitVec 7) (addr : Word)
  | cancel (h : XferHdr)
  | atomRequest (a : AtomReq)
  | atomReply (id : Nat) (old : Option Word) (cause : BitVec 7)
  | wake (queue : Nat) (value : Word)
  | cue (m : CueMsg)
  | peerLost (pkg : BitVec 10)
  | flag (core region : Nat) (addr : Word)
  | launchUnits (units : List (List Byte))
  | report (bytes : List Byte)
  | idle
  deriving DecidableEq, Repr

/-- A packet on a link (R295, R296): its class, bank bit, via stamp, whether a stamp has been cleared at its VIA,
virtual-channel set, destination, and what it carries. -/
structure Packet where
  dest : BitVec 10
  bank : BitVec 1
  via : Option (BitVec 10)
  passed : Bool
  vcSet : BitVec 1
  control : Bool
  lossy : Bool
  msg : Msg
  deriving DecidableEq, Repr

/-- What the peer of a link offers in a key exchange (R299): its ephemeral public key, the signature over that, and its
certificate chain. -/
structure KeyOffer where
  key : List Byte
  sig : List Byte
  cert : List Byte
  deriving DecidableEq, Repr

/-- A fresh exchange on a link that is up (R300). -/
structure Rekey where
  port : Nat
  offer : KeyOffer
  deriving DecidableEq, Repr

/-- Who writes a register (R5, R366): firmware in firmware space, or the host through BAR0. -/
inductive Writer where
  | firmware
  | host
  deriving DecidableEq, Repr

/-- What REGISTER_WRITE writes (R5): a register, by its offset; a load of one, which sets a flag where it meets a wake register
(R371); and what
rules have firmware set without giving it a register: a section of the code map (R125), the weights of the traffic classes
(R304), the slate clock at bring-up (R323), the stop of a key exchange (R299), and the boot flash (R377). -/
inductive FirmWrite where
  | reg (offset : Nat) (value : Word)
  | load (offset : Nat)
  | code (text : Word) (words : Nat) (table : Word)
  | weights (reliable lossy : Nat)
  | slate (value : Word)
  | stopExchange (port : Nat)
  | slot (image : List Byte)
  | record (bytes : List Byte)
  | moveRecord
  | eraseArea
  deriving DecidableEq, Repr

/-- One constructor for each row of the table of operations and events. -/
inductive Instr where
  -- issue and completion of words
  | clauseIssue (r : PathRef)
  | wordComplete (r : PathRef) (n : Nat)
  -- control, scalar and execution (R135 to R161)
  | bra (o : FieldsB)
  | brc (o : FieldsB)
  | brv (o : FieldsBJ)
  | join (o : FieldsI)
  | call (o : FieldsB)
  | ret (o : FieldsR)
  | jmpi (o : FieldsR)
  | loop (o : FieldsB)
  | exit (o : FieldsI)
  | pause (o : FieldsI)
  | pauseW (o : FieldsI)
  | pauseCountExpiry (r : PathRef)
  | spuriousWakeUp (r : PathRef)
  | spawn (o : FieldsR)
  | spawnr (o : FieldsR)
  | enql (o : FieldsR)
  | partialCastTimeout (cluster region : Nat) (entry : BitVec 32)
  | laneTaskRefill (region cluster : Nat)
  | spawnRingDrain (region : Nat)
  | bari (o : FieldsI)
  | bara (o : FieldsI)
  | barw (o : FieldsI)
  | bars (o : FieldsI)
  | barrierTimeout (core barrier : Nat)
  | movi (o : FieldsI)
  | movh (o : FieldsI)
  | adda (o : FieldsI)
  | mov (o : FieldsR)
  | add (o : FieldsR)
  | sub (o : FieldsR)
  | mul (o : FieldsR)
  | mulh (o : FieldsR)
  | div (o : FieldsR)
  | rem (o : FieldsR)
  | and (o : FieldsR)
  | or (o : FieldsR)
  | xor (o : FieldsR)
  | not (o : FieldsR)
  | shl (o : FieldsR)
  | shr (o : FieldsR)
  | sar (o : FieldsR)
  | rot (o : FieldsR)
  | min (o : FieldsR)
  | max (o : FieldsR)
  | cmp (o : FieldsR)
  | sel (o : FieldsR)
  | clz (o : FieldsR)
  | popc (o : FieldsR)
  | bfe (o : FieldsR)
  | bfi (o : FieldsR)
  | srd (o : FieldsS)
  | swr (o : FieldsS)
  -- vector, cross-lane and narrow formats (R162 to R187)
  | vadd (o : FieldsR)
  | vsub (o : FieldsR)
  | vmul (o : FieldsR)
  | vmulh (o : FieldsR)
  | vmad (o : FieldsR)
  | vand (o : FieldsR)
  | vor (o : FieldsR)
  | vxor (o : FieldsR)
  | vnot (o : FieldsR)
  | vshl (o : FieldsR)
  | vshr (o : FieldsR)
  | vsar (o : FieldsR)
  | vmin (o : FieldsR)
  | vmax (o : FieldsR)
  | vabs (o : FieldsR)
  | vclz (o : FieldsR)
  | vpopc (o : FieldsR)
  | vbfe (o : FieldsR)
  | vbfi (o : FieldsR)
  | vmov (o : FieldsR)
  | vcmp (o : FieldsR)
  | vsel (o : FieldsR)
  | vmovs (o : FieldsI)
  | vfadd (o : FieldsR)
  | vfsub (o : FieldsR)
  | vfmul (o : FieldsR)
  | vfma (o : FieldsR)
  | vfmin (o : FieldsR)
  | vfmax (o : FieldsR)
  | vfabs (o : FieldsR)
  | vfneg (o : FieldsR)
  | vfrnd (o : FieldsR)
  | vfcmp (o : FieldsR)
  | vfcls (o : FieldsR)
  | vrcp (o : FieldsR)
  | vrsq (o : FieldsR)
  | vsqrt (o : FieldsR)
  | vexp2 (o : FieldsR)
  | vlog2 (o : FieldsR)
  | vsin (o : FieldsR)
  | vcos (o : FieldsR)
  | vfcvt (o : FieldsR)
  | vpack (o : FieldsR)
  | vunpk (o : FieldsR)
  | vcbtEnc (o : FieldsR)
  | vcbtDec (o : FieldsR)
  | vcbtMov (o : FieldsR)
  | vqhist (o : FieldsR)
  | vqnt (o : FieldsR)
  | vshuf (o : FieldsR)
  | vrot (o : FieldsR)
  | vbfly (o : FieldsR)
  | vbcst (o : FieldsR)
  | vrdc (o : FieldsR)
  | vscan (o : FieldsR)
  | vext (o : FieldsR)
  | vins (o : FieldsR)
  | vballot (o : FieldsR)
  | vvote (o : FieldsR)
  | kand (o : FieldsR)
  | kor (o : FieldsR)
  | kxor (o : FieldsR)
  | knot (o : FieldsR)
  | kmov (o : FieldsR)
  | kmovS (o : FieldsR)
  | exmrd (o : FieldsR)
  | exmwr (o : FieldsR)
  | pairWord (o : FieldsP)
  -- memory (R188 to R238)
  | ld (o : FieldsM)
  | st (o : FieldsM)
  | lda (o : FieldsM)
  | stl (o : FieldsM)
  | vld (o : FieldsM)
  | vst (o : FieldsM)
  | vldg (o : FieldsM)
  | vsts (o : FieldsM)
  | vldb (o : FieldsM)
  | at (o : FieldsM)
  | acas (o : FieldsM)
  | vat (o : FieldsM)
  | fence (o : FieldsM)
  | pref (o : FieldsM)
  | lock (o : FieldsM)
  | unlk (o : FieldsM)
  | bnkcfg (o : FieldsR)
  | fput (o : FieldsM)
  | fget (o : FieldsM)
  | waitc (o : FieldsM)
  | waitcTimeout (r : PathRef)
  | cpy (o : FieldsR)
  | cpy2 (o : FieldsR)
  | cpyt (o : FieldsR)
  | cpyq (o : FieldsR)
  | sealb (o : FieldsI)
  | waitb (o : FieldsI)
  | waitbT (o : FieldsI)
  | waitbTimeout (r : PathRef)
  | dollyUnit (copy : Nat)
  | copyComplete (copy : Nat)
  | copyHoldTimeout (copy : Nat)
  -- matrix (R239 to R268)
  | mma (o : FieldsX)
  | mmat (o : FieldsX)
  | mmaw (o : FieldsX)
  | wbld (o : FieldsM)
  | tld (o : FieldsM)
  | tst (o : FieldsM)
  | ald (o : FieldsM)
  | ast (o : FieldsM)
  | aclr (o : FieldsX)
  | ascl (o : FieldsX)
  | acvt (o : FieldsX)
  | tsigTile (o : FieldsX)
  | tsigAcc (o : FieldsX)
  | tschk (o : FieldsM)
  | sliceArrival (r : PathRef) (run : Nat) (opB : Bool) (q : Nat) (data : List Byte) (fail : Option (BitVec 7))
  -- distributions (R269 to R292)
  | dld (o : FieldsM)
  | dst (o : FieldsM)
  | dpt (o : FieldsR)
  | dset (o : FieldsR)
  | dadd (o : FieldsR)
  | dsub (o : FieldsR)
  | dmul (o : FieldsR)
  | dmax (o : FieldsR)
  | dmin (o : FieldsR)
  | daff (o : FieldsR)
  | dfn (o : FieldsR)
  | dmix (o : FieldsR)
  | dcond (o : FieldsR)
  | dtagNew (o : FieldsR)
  | dtagSet (o : FieldsR)
  | dtagOr (o : FieldsR)
  | dtgrd (o : FieldsR)
  | dmom (o : FieldsR)
  | dqnt (o : FieldsR)
  | dcdf (o : FieldsR)
  -- fabric instructions (R305 to R321)
  | rput (o : FieldsM)
  | rget (o : FieldsM)
  | rred (o : FieldsM)
  | ratom (o : FieldsM)
  | rmskRd (o : FieldsM)
  | rmskArm (o : FieldsM)
  | rmskDisarm (o : FieldsM)
  | vrdcm (o : FieldsR)
  -- power and system instructions (R341 to R346, R356 to R359)
  | tkrd (o : FieldsS)
  | tkrsv (o : FieldsS)
  | cue (o : FieldsS)
  | blst (o : FieldsS)
  | trap (o : FieldsS)
  | syscNotify (o : FieldsS)
  | syscFrec (o : FieldsS)
  | syscBrec (o : FieldsS)
  | syscAttest (o : FieldsS)
  | syscReply (r : PathRef)
  -- launch queues (R21 to R24, R370 to R375)
  | wakeStore (queue size : Nat) (aligned : Bool) (value : Word)
  | launch (queue : Nat)
  | pad (queue : Nat)
  | controlSuspend (queue : Nat)
  | controlResume (queue : Nat)
  | controlTerminate (queue : Nat)
  | controlClearBootfail (queue : Nat)
  | controlAttest (queue : Nat)
  | resreq (queue : Nat)
  | phaseChange (queue : Nat)
  -- crews and regions (R20, R27, R30, R57, R386)
  | crewDispatch (die : Nat)
  | crewSave (crew : Nat)
  | crewEnd (crew : Nat)
  | endStoreTimeout (region : Nat)
  | regionTerminated (region : Nat)
  -- power (R325 to R338, R347)
  | coreBucketHold (core : Nat)
  | slateTick (c0 c1 c2 c3 : Nat)
  | gafferInterval (uncoreMw : Nat)
  | cueMessage (m : CueMsg)
  -- faults, ownership, translation (R217, R218, R363 to R365)
  | replayTimeout (h : HoldRef)
  -- links and fabric events (R295 to R319)
  | linkTimeout (port : Nat)
  | idleFlit (port : Nat)
  | linkAutoBringup (port : Nat)
  | linkBringupComplete (port : Nat) (offer : Option KeyOffer)
  | linkRekey (x : Rekey)
  | flitReceive (port : Nat) (tagOk : Bool) (p : Packet)
  | peerLostNotice (pkg : BitVec 10)
  | lossyHeader (h : XferHdr)
  | lossyBlock (id block : Nat) (data : List Byte)
  | lossyDeadline (id : Nat)
  | transferComplete (incoming : Bool) (id : Nat)
  | reliableResend (id : Nat)
  | transferTimeout (id : Nat)
  | remoteAtomic (a : AtomReq)
  | remoteReadRequest (id : Nat) (src : BitVec 10) (addr : Word) (len : Nat)
  -- firmware-space registers, debug, boot (R366 to R383)
  | fabricEngineFlit (id : Nat)
  -- steps of parties outside: the host, the firmware, the debug port, the supply
  | launchQueueReset (queue : Nat)
  | launchQueueControlWrite (queue : Nat) (value : Word)
  | gcfgWrite (value : Word)
  | ggrpWrite (value : Word)
  | faultResolved (h : HoldRef)
  | ownershipToHost (va : Word)
  | ownershipToDevice (va : Word)
  | hostCxlAccess (pa : Nat) (store : Bool) (data : List Byte)
  | tlbinv (value : Word)
  | linkStart (port : Nat)
  | lnktoWrite (value : Word)
  | routingEntryWrite (bank : BitVec 1) (entry : BitVec 10) (value : BitVec 16)
  | frctlInjWrite (bank : BitVec 1)
  | frctlValidWrite (bank : BitVec 1) (value : Bool)
  | eventQueueControlWrite (value : Word)
  | debugStopArm (value : Bool)
  | haltEnable (value : Bool)
  | reelStart (value : Bool)
  | takeStart (value : Bool)
  | histogramClear (quadrant counter : Nat)
  | registerWrite (who : Writer) (w : FirmWrite)
  | faultResolutionFailed (h : HoldRef)
  | powerLoss (slotWrite recordWrite : Bool)
  -- words and events without operands (R145, R148, R153, R221, R356)
  | nop
  | waitsp
  | qflush
  | stepw
  | phase
  | halt
  | eret
  | tlbinvComplete
  | frctlRerrClear
  | debugStop
  | lanternMismatch
  | powerOnReset
  deriving DecidableEq, Repr

end Sys2Proof
end

