-- ==== Sys2Proof/Machine/Static.lean ====
section
/-! DEFINITION. What each instruction word may hold (check 3 of R106) and which registers it names: one row per word in a
table for each family, from which the field checks and the register uses are both read. -/

namespace Sys2Proof.Machine

/-- What a register field names (R61, R62, R69, R244, R251, R64). -/
inductive Kind where
  | scalar
  | mask
  | vec
  | pair
  | tile
  | acc
  | dist
  | wslot
  | sysreg
  deriving DecidableEq, Repr

/-- How many names a kind has (R69, R108, R251). -/
def Kind.names : Kind → Nat
  | .scalar => 64
  | .mask => 8
  | .vec => 256
  | .pair => 128
  | .tile => 64
  | .acc => 32
  | .dist => 32
  | .wslot => 32
  | .sysreg => 4096

/-- A register that a word names, and whether the word writes it. -/
structure Use where
  kind : Kind
  num : Nat
  wr : Bool
  deriving DecidableEq, Repr

/-- A register read, and a register written. -/
def Use.rd (k : Kind) (n : Nat) : Use := { kind := k, num := n, wr := false }
def Use.wt (k : Kind) (n : Nat) : Use := { kind := k, num := n, wr := true }

/-- Register kind of an integer vector type (R109, R162). -/
def intKind (ty : BitVec 3) : Kind := if 6 ≤ ty.toNat then .pair else .vec
/-- Register kind of a floating-point vector type (R109, R162). -/
def fpKind (ty : BitVec 3) : Kind := if ty.toNat = 1 then .pair else .vec
/-- Elements per lane of an integer vector type (R162). -/
def intElems (ty : BitVec 3) : Nat := if ty.toNat = 2 ∨ ty.toNat = 3 then 2 else if ty.toNat = 4 ∨ ty.toNat = 5 then 4 else 1
/-- Elements per lane of a floating-point vector type (R162). -/
def fpElems (ty : BitVec 3) : Nat := if 2 ≤ ty.toNat then 2 else 1
/-- The field [hi:lo] of a bit vector as a number. -/
def fld {n : Nat} (x : BitVec n) (hi lo : Nat) : Nat := (x.toNat >>> lo) % 2 ^ (hi + 1 - lo)

/-! ### System registers (R64) -/

/-- The indices R64 lists. -/
def sysListed (i : Nat) : Bool :=
  decide (i ≤ 5) || i == 0x8 || (decide (0x10 ≤ i) && decide (i ≤ 0x14)) || i == 0x18 || i == 0x20 || i == 0x21 ||
  (decide (0x28 ≤ i) && decide (i ≤ 0x2B)) || i == 0x30 || (decide (0x100 ≤ i) && decide (i ≤ 0x104)) ||
  (decide (0x200 ≤ i) && decide (i ≤ 0x202)) || i == 0x300

/-- The registers R64 lists as RW; no register is WO. -/
def sysWritable (i : Nat) : Bool :=
  (decide (0x10 ≤ i) && decide (i ≤ 0x14)) || i == 0x20 || i == 0x21 || (decide (0x28 ≤ i) && decide (i ≤ 0x2B)) ||
  i == 0x30 || i == 0x202

/-! ### Family R -/

/-- The codebook, CBT0 to CBT3, as a word reads it (R85, R160, R178). -/
def cbtReads : List Use := [Use.rd .sysreg 0x28, Use.rd .sysreg 0x29, Use.rd .sysreg 0x2A, Use.rd .sysreg 0x2B]

/-- What a word of family R may hold: the kinds of its register fields, the broadcast positions it admits, whether it
must have one, whether it takes only a literal there (R138), whether it has a rounding mode, whether SC is a code,
whether it takes a predicate; ok is what its description asks of TYPE, MOD and codes. -/
structure RShape where
  dst : Option Kind := none
  a : Option Kind := none
  b : Option Kind := none
  c : Option Kind := none
  bp : List Nat := []
  need : Bool := false
  lit : Bool := false
  rm : Bool := false
  scCode : Bool := false
  pred : Bool := true
  ok : Bool := true
  more : List Use := []
  deriving DecidableEq, Repr

/-- Scalar instruction with n sources (R138, R158). -/
def scalarShape (o : FieldsR) (n : Nat) (modOk : Bool) : RShape :=
  { dst := some .scalar, a := some .scalar, b := if 2 ≤ n then some .scalar else none,
    c := if 3 ≤ n then some .scalar else none, bp := (List.range n).map (· + 1), lit := true, pred := false,
    ok := decide (o.ty.toNat ≤ 3) && modOk }

/-- Vector integer instruction with n sources (R167). -/
def vintShape (o : FieldsR) (n : Nat) (sat : Bool) (typesOk : Bool) : RShape :=
  { dst := some (intKind o.ty), a := some (intKind o.ty), b := if 2 ≤ n then some (intKind o.ty) else none,
    c := if 3 ≤ n then some (intKind o.ty) else none, bp := (List.range n).map (· + 1),
    ok := typesOk && (o.md == 0 || (sat && o.md == 1)) }

/-- Vector floating-point instruction with n sources (R170). -/
def vfpShape (o : FieldsR) (n : Nat) (rm : Bool) (modMax : Nat) : RShape :=
  { dst := some (fpKind o.ty), a := some (fpKind o.ty), b := if 2 ≤ n then some (fpKind o.ty) else none,
    c := if 3 ≤ n then some (fpKind o.ty) else none, bp := (List.range n).map (· + 1), rm := rm,
    ok := decide (o.ty.toNat ≤ 3) && decide (o.md.toNat ≤ modMax) }

/-- Special function (R173). -/
def specShape (o : FieldsR) : RShape :=
  { dst := some .vec, a := some .vec, bp := [1], rm := true, ok := o.ty == 0 && o.md == 0 }

/-- Kind of a register that holds a format code's element (R174 to R177). -/
def codeKind (c : Nat) : Kind := if c = 1 ∨ c = 11 ∨ c = 12 then .pair else .vec
/-- Is the format code 16 or 8 bits wide? -/
def codeNarrow (c : Nat) : Bool := c = 2 ∨ c = 3 ∨ c = 4 ∨ c = 7 ∨ c = 8 ∨ c = 9 ∨ c = 10
/-- Is the format code 8 bits wide? -/
def codeByte (c : Nat) : Bool := c = 4 ∨ c = 9 ∨ c = 10
/-- .sat asks for two integer formats (R175). -/
def satOk (o : FieldsR) : Bool :=
  fld o.md 4 4 == 0 || (decide (5 ≤ fld o.sc 7 4) && decide (5 ≤ fld o.sc 3 0))

/-- VRDC and VSCAN (R182): .excl, MOD[3], is VSCAN's only. A floating min or max, for which R182 gives no rounding, may
hold any RM. DESIGN CHOICE (log 90). -/
def combShape (o : FieldsR) (exclOk : Bool) : RShape :=
  let flt := fld o.md 4 4 == 1
  let k := if flt then fpKind o.ty else intKind o.ty
  { dst := some k, a := some k, bp := [1], rm := flt,
    ok := exclOk && (if flt then decide (o.ty.toNat ≤ 3) && decide (fld o.md 2 0 ≤ 2) else decide (fld o.md 2 0 ≤ 5)) }

/-- Mask instruction (R184). -/
def maskShape (o : FieldsR) (b : Bool) : RShape :=
  { dst := some .mask, a := some .mask, b := if b then some .mask else none, ok := o.ty == 0 && o.md == 0 }

/-- Binary distribution instruction (R278). -/
def distShape (o : FieldsR) : RShape :=
  { dst := some .dist, a := some .dist, b := some .dist, ok := o.ty == 0 && o.md == 0 }

/-- The row of each family R word. Where a description names no source that a broadcast may replace, VUNPK takes one in
place of source 1, and VBALLOT, VVOTE, VEXT, VROT and VQNT refuse it there. DESIGN CHOICE (log 90). -/
def rShape : Instr → Option (FieldsR × RShape)
  | .ret o | .jmpi o => some (o, { a := some .scalar, pred := false, ok := o.ty == 0 && o.md == 0 })
  | .spawn o | .spawnr o =>
    some (o, { dst := some .scalar, a := some .scalar, b := some .scalar, bp := [2], lit := true, pred := false,
               ok := o.ty == 0 && o.md == 0 })
  | .enql o =>
    some (o, { dst := some .mask, a := some .scalar, b := some .vec, c := some .vec, bp := [0, 2, 3],
               ok := o.ty == 0 && o.md == 0 })
  | .mov o | .not o | .clz o | .popc o => some (o, scalarShape o 1 (o.md == 0))
  | .add o | .sub o | .mul o | .mulh o | .div o | .rem o | .and o | .or o | .xor o | .shl o | .shr o | .sar o
  | .rot o | .min o | .max o | .bfe o => some (o, scalarShape o 2 (o.md == 0))
  | .cmp o => some (o, scalarShape o 2 (decide (o.md.toNat ≤ 5)))
  | .sel o | .bfi o => some (o, scalarShape o 3 (o.md == 0))
  | .vadd o | .vsub o | .vmul o => some (o, vintShape o 2 true true)
  | .vmulh o | .vand o | .vor o | .vxor o | .vshl o | .vshr o | .vsar o | .vmin o | .vmax o =>
    some (o, vintShape o 2 false true)
  | .vmad o => some (o, vintShape o 3 true true)
  | .vnot o | .vclz o | .vpopc o | .vmov o => some (o, vintShape o 1 false true)
  | .vabs o => some (o, vintShape o 1 true true)
  | .vbfe o => some (o, vintShape o 2 false (decide (o.ty.toNat ≤ 1) || decide (6 ≤ o.ty.toNat)))
  | .vbfi o => some (o, vintShape o 3 false (decide (o.ty.toNat ≤ 1) || decide (6 ≤ o.ty.toNat)))
  | .vcmp o =>
    some (o, { dst := some .mask, a := some (intKind o.ty), b := some (intKind o.ty), bp := [1, 2],
               ok := decide (fld o.md 2 0 ≤ 5) && decide (fld o.md 4 3 < intElems o.ty) })
  | .vsel o =>
    some (o, { dst := some (intKind o.ty), a := some .mask, b := some (intKind o.ty), c := some (intKind o.ty),
               bp := [2, 3], ok := (o.ty == 0 || o.ty == 6) && o.md == 0 })
  | .vfadd o | .vfsub o | .vfmul o => some (o, vfpShape o 2 true 0)
  | .vfma o => some (o, vfpShape o 3 true 0)
  | .vfmin o | .vfmax o => some (o, vfpShape o 2 false 0)
  | .vfabs o | .vfneg o | .vfcls o => some (o, vfpShape o 1 false 0)
  | .vfrnd o => some (o, vfpShape o 1 true 1)
  | .vfcmp o =>
    some (o, { dst := some .mask, a := some (fpKind o.ty), b := some (fpKind o.ty), bp := [1, 2],
               ok := decide (o.ty.toNat ≤ 3) && decide (fld o.md 4 3 < fpElems o.ty) })
  | .vrcp o | .vrsq o | .vsqrt o | .vexp2 o | .vlog2 o | .vsin o | .vcos o => some (o, specShape o)
  | .vfcvt o =>
    let d := fld o.sc 7 4
    let s := fld o.sc 3 0
    some (o, { dst := some (codeKind d), a := some (codeKind s), bp := [1], rm := true, scCode := true,
               ok := o.ty == 0 && decide (d ≤ 12) && decide (s ≤ 12) && d != s && fld o.md 3 0 == 0 && satOk o })
  | .vpack o =>
    let d := fld o.sc 7 4
    let s := fld o.sc 3 0
    some (o, { dst := some .vec, a := some (codeKind s), b := some (codeKind s), bp := [1, 2], rm := true,
               scCode := true,
               ok := o.ty == 0 && codeNarrow d && decide (s ≤ 12) && fld o.md 3 2 == 0 && satOk o &&
                 (fld o.md 1 0 == 0 || (codeByte d && fld o.md 1 0 == 2)) })
  | .vunpk o =>
    let d := fld o.sc 7 4
    let s := fld o.sc 3 0
    some (o, { dst := some (codeKind d), a := some .vec, bp := [1], rm := true, scCode := true,
               ok := o.ty == 0 && codeNarrow s && decide (d ≤ 12) && fld o.md 3 2 == 0 && satOk o &&
                 (codeByte s || decide (fld o.md 1 0 ≤ 1)) })
  | .vcbtEnc o =>
    some (o, { dst := some .vec, a := some .vec, bp := [1], scCode := true, more := cbtReads,
               ok := o.ty == 0 && fld o.md 4 3 == 0 && (o.sc == 0 || o.sc == 2 || o.sc == 3) })
  | .vcbtDec o =>
    some (o, { dst := some .vec, a := some .vec, bp := [1], rm := true, scCode := true,
               more := cbtReads,
               ok := o.ty == 1 && fld o.md 4 3 == 0 && (o.sc == 0 || o.sc == 0x20 || o.sc == 0x30) })
  | .vcbtMov o => some (o, { dst := some .vec, a := some .vec, bp := [1], ok := o.ty == 2 && fld o.md 4 3 == 0 })
  | .vqhist o =>
    some (o, { dst := some .vec, a := some .vec, bp := [2], need := true, more := cbtReads,
               ok := o.ty == 0 && decide (fld o.md 1 0 ≤ 2) && decide (fld o.md 4 2 ≤ 5) })
  | .vqnt o =>
    some (o, { dst := some .vec, a := some .vec, b := some .vec, bp := [2], rm := true,
               more := cbtReads,
               ok := o.ty == 0 && fld o.md 1 0 == 0 && decide (fld o.md 4 2 ≤ 5) })
  | .vshuf o =>
    some (o, { dst := some (intKind o.ty), a := some (intKind o.ty), b := some (intKind o.ty), bp := [1, 2],
               ok := (o.ty == 0 || o.ty == 6) && o.md == 0 })
  | .vrot o | .vbcst o =>
    some (o, { dst := some (intKind o.ty), a := some (intKind o.ty), bp := [2], need := true,
               ok := (o.ty == 0 || o.ty == 6) && o.md == 0 })
  | .vbfly o =>
    some (o, { dst := some (intKind o.ty), a := some (intKind o.ty), bp := [2], need := true,
               ok := (o.ty == 0 || o.ty == 6) && decide (o.md.toNat ≤ 1) })
  | .vrdc o => some (o, combShape o (fld o.md 3 3 == 0))
  | .vscan o => some (o, combShape o true)
  | .vext o =>
    some (o, { dst := some .scalar, a := some (intKind o.ty), bp := [2], need := true,
               ok := fld o.md 4 2 == 0 && decide (fld o.md 1 0 < intElems o.ty) })
  | .vins o =>
    some (o, { dst := some (intKind o.ty), a := some .scalar, bp := [2], need := true,
               ok := fld o.md 4 2 == 0 && decide (fld o.md 1 0 < intElems o.ty) })
  | .vballot o =>
    some (o, { dst := some .mask, a := some (intKind o.ty),
               ok := fld o.md 1 0 == 0 && fld o.md 4 4 == 0 && decide (fld o.md 3 2 < intElems o.ty) })
  | .vvote o =>
    some (o, { dst := some .scalar, a := some (intKind o.ty),
               ok := fld o.md 4 4 == 0 && decide (fld o.md 3 2 < intElems o.ty) })
  | .kand o | .kor o | .kxor o => some (o, maskShape o true)
  | .knot o => some (o, maskShape o false)
  | .kmov o => some (o, { dst := some .mask, a := some .mask, bp := [1], ok := o.ty == 0 && o.md == 0 })
  | .kmovS o => some (o, { dst := some .scalar, a := some .mask, ok := o.ty == 0 && o.md == 1 })
  | .exmrd o => some (o, { dst := some .mask, pred := false, ok := o.ty == 0 && o.md == 0 })
  | .exmwr o => some (o, { a := some .mask, pred := false, ok := o.ty == 0 && o.md == 0 })
  | .bnkcfg o =>
    some (o, { dst := some .scalar, a := some .scalar, pred := false, ok := o.ty == 0 && decide (o.md.toNat ≤ 2) })
  | .cpy o | .cpy2 o =>
    some (o, { a := some .scalar, b := some .scalar, c := some .scalar, pred := false,
               ok := o.ty == 0 && o.md == 0 })
  | .cpyt o =>
    some (o, { a := some .scalar, b := some .scalar, c := some .scalar, pred := false,
               ok := o.ty == 0 && decide (o.md.toNat ≤ 3) })
  | .cpyq o => some (o, { a := some .scalar, b := some .scalar, pred := false, ok := o.ty == 0 && o.md == 0 })
  | .dpt o => some (o, { dst := some .dist, a := some .vec, b := some .vec, bp := [1, 2], ok := o.ty == 0 && o.md == 0 })
  | .dset o =>
    some (o, { dst := some .dist, a := some .vec, b := some .vec, bp := [1, 2],
               ok := o.ty == 0 && decide (o.md.toNat ≤ 3) })
  | .dadd o | .dsub o | .dmul o | .dmax o | .dmin o => some (o, distShape o)
  | .daff o =>
    some (o, { dst := some .dist, a := some .dist, b := some .vec, c := some .vec, bp := [2, 3],
               ok := o.ty == 0 && o.md == 0 })
  | .dfn o => some (o, { dst := some .dist, a := some .dist, ok := o.ty == 0 && decide (o.md.toNat ≤ 3) })
  | .dmix o =>
    some (o, { dst := some .dist, a := some .dist, b := some .dist, c := some .vec, bp := [3],
               ok := o.ty == 0 && o.md == 0 })
  | .dcond o =>
    some (o, { dst := some .dist, a := some .dist, b := some .vec, bp := [2],
               ok := o.ty == 0 && decide (2 ≤ o.md.toNat) && decide (o.md.toNat ≤ 5) })
  | .dtagNew o => some (o, { dst := some .scalar, a := some .dist, pred := false, ok := o.ty == 0 && o.md == 0,
                             more := [Use.wt .dist o.sa.toNat] })
  | .dtagSet o => some (o, { dst := some .dist, a := some .scalar, pred := false, ok := o.ty == 0 && o.md == 1 })
  | .dtagOr o => some (o, { dst := some .dist, a := some .scalar, pred := false, ok := o.ty == 0 && o.md == 2 })
  | .dtgrd o => some (o, { dst := some .scalar, a := some .dist, pred := false, ok := o.ty == 0 && o.md == 0 })
  | .dmom o =>
    let d := o.dst.toNat
    some (o, { dst := some .vec, a := some .dist, ok := o.ty == 0 && o.md == 0 && decide (d ≤ 251),
               more := [Use.wt .vec (d + 1), Use.wt .vec (d + 2), Use.wt .vec (d + 3), Use.wt .vec (d + 4)] })
  | .dqnt o => some (o, { dst := some .vec, a := some .dist, bp := [2], need := true, ok := o.ty == 0 && o.md == 0 })
  | .dcdf o =>
    some (o, { dst := some .vec, a := some .dist, b := some .vec, bp := [2], ok := o.ty == 0 && o.md == 0 })
  | .vrdcm o =>
    some (o, { dst := some .vec, a := some .scalar, b := some .scalar, c := some .mask, rm := true,
               ok := (o.ty == 0 || o.ty == 3) && decide (o.md.toNat ≤ 1), more := [Use.wt .mask o.sc.toNat] })
  | _ => none

/-- Does the broadcast replace source k (R110)? -/
def replaces (o : FieldsR) (k : Nat) : Bool := o.bv == 1 && o.bpos.toNat == k

/-- A source field holds what R110 admits: a literal, zero, or a register of its kind. -/
def srcFieldOk (o : FieldsR) (kd : Option Kind) (k : Nat) (f : BitVec 8) : Bool :=
  if replaces o k then o.bs == 63 || f == 0
  else match kd with
    | none => f == 0
    | some kk => decide (f.toNat < kk.names)

/-- A destination field holds a register of its kind, or zero (R108). -/
def dstFieldOk (kd : Option Kind) (f : BitVec 8) : Bool :=
  match kd with
  | none => f == 0
  | some kk => decide (f.toNat < kk.names)

/-- Check 3 of R106 for family R. -/
def rOk (o : FieldsR) (h : RShape) : Bool :=
  h.ok && (h.pred || o.pred == 0) && (h.rm || o.rm == 0) && dstFieldOk h.dst o.dst &&
  srcFieldOk o h.a 1 o.sa && srcFieldOk o h.b 2 o.sb &&
  (h.scCode || srcFieldOk o h.c 3 o.sc) &&
  (if o.bv == 1 then h.bp.contains o.bpos.toNat && (!h.lit || o.bs == 63)
   else o.bs == 0 && o.bpos == 0 && !h.need)

/-- A register read named by a field, unless the broadcast replaces it. -/
def srcUse (o : FieldsR) (kd : Option Kind) (k : Nat) (f : BitVec 8) : List Use :=
  match kd with
  | some kk => if replaces o k then [] else [Use.rd kk f.toNat]
  | none => []

/-- The register a destination field names. -/
def dstUse (kd : Option Kind) (f : BitVec 8) : List Use :=
  match kd with
  | some kk => [Use.wt kk f.toNat]
  | none => []

/-- A predicate other than k0 is a mask read. -/
def predUse (p : BitVec 3) : List Use := if p = 0 then [] else [Use.rd .mask p.toNat]

/-- The registers a family R word names. -/
def rUses (o : FieldsR) (h : RShape) : List Use :=
  dstUse h.dst o.dst ++ srcUse o h.a 1 o.sa ++ srcUse o h.b 2 o.sb ++
  (if h.scCode then [] else srcUse o h.c 3 o.sc) ++
  (if o.bv = 1 ∧ o.bs ≠ 63 then [Use.rd .scalar o.bs.toNat] else []) ++ predUse o.pred ++ h.more

/-! ### Family I -/

/-- What a word of family I may hold. -/
structure IShape where
  dst : Option Kind := none
  a : Option Kind := none
  pred : Bool := false
  ok : Bool := true
  more : List Use := []
  deriving DecidableEq, Repr

/-- The row of each family I word (R145, R148, R153, R157, R169, R234). -/
def iShape : Instr → Option (FieldsI × IShape)
  | .join o => some (o, { ok := o.ty == 0 })
  | .exit o => some (o, { pred := true, ok := o.ty == 0 && o.imm == 0 })
  | .pause o => some (o, { ok := o.ty == 0 })
  | .pauseW o => some (o, { a := some .scalar, ok := o.ty == 1 })
  | .bari o =>
    some (o, { a := some .scalar,
               ok := o.ty == 0 && decide (fld o.imm 6 0 ≤ 95) && fld o.imm 7 7 == 0 && decide (1 ≤ fld o.imm 13 8) &&
                 decide (fld o.imm 13 8 ≤ 32) && fld o.imm 31 14 == 0 })
  | .bara o | .barw o | .bars o => some (o, { ok := o.ty == 0 && decide (o.imm.toNat ≤ 95) })
  | .movi o => some (o, { dst := some .scalar, ok := decide (o.ty.toNat ≤ 1) })
  | .movh o => some (o, { dst := some .scalar, ok := o.ty == 0, more := [Use.rd .scalar o.dst.toNat] })
  | .adda o => some (o, { dst := some .scalar, a := some .scalar, ok := o.ty == 0 })
  | .vmovs o => some (o, { dst := some (intKind o.ty), pred := true })
  | .sealb o => some (o, { dst := some .scalar, ok := o.ty == 0 && o.imm == 0 })
  | .waitb o => some (o, { ok := o.ty == 0 && decide (o.imm.toNat ≤ 127) })
  | .waitbT o => some (o, { dst := some .scalar, a := some .scalar, ok := o.ty == 1 && decide (o.imm.toNat ≤ 127) })
  | _ => none

/-- Check 3 of R106 for family I. -/
def iOk (o : FieldsI) (h : IShape) : Bool :=
  h.ok && (h.pred || o.pred == 0) && dstFieldOk h.dst o.dst && dstFieldOk h.a o.sa

/-- The registers a family I word names. -/
def iUses (o : FieldsI) (h : IShape) : List Use :=
  dstUse h.dst o.dst ++ (match h.a with | some k => [Use.rd k o.sa.toNat] | none => []) ++ predUse o.pred ++ h.more

/-! ### Family M -/

/-- What a word of family M may hold: the kind of its data register and whether the word writes it, the kind that XR
names in form b, whether it has an address, its scopes and orders. -/
structure MShape where
  dst : Option Kind := none
  wr : Bool := true
  xr : Option Kind := none
  addr : Bool := true
  scopes : List Nat := [0]
  ords : List Nat := [0]
  pred : Bool := false
  ok : Bool := true
  more : List Use := []
  deriving DecidableEq, Repr

/-- TYPE and operation of an atomic (R223). -/
def atomOk (ty : BitVec 3) (md : BitVec 5) : Bool :=
  (decide (md.toNat ≤ 6) && decide (ty.toNat ≤ 3)) || (md == 7 && decide (ty.toNat ≤ 5)) ||
  (md == 8 && (ty == 4 || ty == 5))

/-- Register kind of a VAT type (R227). -/
def atomKind (ty : BitVec 3) : Kind := if ty = 0 ∨ ty = 1 ∨ ty = 4 then .pair else .vec
/-- Every scope and every order. -/
def scopes06 : List Nat := [0, 1, 2, 3, 4, 5, 6]

/-- Lane access of TYPE 0 or 6 (R224 to R226). -/
def laneShape (o : FieldsM) (wr : Bool) (xr : Bool) (modMax : Nat) : MShape :=
  { dst := some (intKind o.ty), wr := wr, xr := if xr then some .vec else none, pred := true,
    ok := (o.ty == 0 || o.ty == 6) && decide (o.md.toNat ≤ modMax) }

/-- The second register of form b (R112). -/
def xrOf (o : FieldsM) : Nat := fld o.off 23 16

/-- The row of each family M word (R221, R252, R255, R260, R279, R306). -/
def mShape : Instr → Option (FieldsM × MShape)
  | .ld o => some (o, { dst := some .scalar, ok := o.ty == 0 && decide (o.md.toNat ≤ 7) && o.md != 4 })
  | .st o => some (o, { dst := some .scalar, wr := false, ok := o.ty == 0 && decide (o.md.toNat ≤ 3) })
  | .lda o => some (o, { dst := some .scalar, scopes := scopes06, ords := [0, 1],
                         ok := o.ty == 0 && decide (o.md.toNat ≤ 7) && o.md != 4 })
  | .stl o => some (o, { dst := some .scalar, wr := false, scopes := scopes06, ords := [0, 2],
                         ok := o.ty == 0 && decide (o.md.toNat ≤ 3) })
  | .vld o => some (o, laneShape o true false 4)
  | .vst o => some (o, laneShape o false false 4)
  | .vldg o => some (o, laneShape o true true 0)
  | .vsts o => some (o, laneShape o false true 0)
  | .vldb o => some (o, laneShape o true false 0)
  | .at o => some (o, { dst := some .scalar, scopes := scopes06, ords := [0, 1, 2, 3], ok := atomOk o.ty o.md })
  | .acas o => some (o, { dst := some .scalar, xr := some .scalar, scopes := scopes06, ords := [0, 1, 2, 3],
                          ok := decide (o.ty.toNat ≤ 3) && o.md == 0 })
  | .vat o => some (o, { dst := some (atomKind o.ty), xr := some .vec, scopes := scopes06, ords := [0, 1, 2, 3],
                         pred := true, ok := atomOk o.ty o.md })
  | .fence o => some (o, { addr := false, scopes := scopes06, ords := [1, 2, 3],
                           ok := o.ty == 0 && decide (o.md.toNat ≤ 1) })
  | .pref o => some (o, { ok := o.ty == 0 && decide (o.md.toNat ≤ 2) })
  | .lock o | .unlk o => some (o, { dst := some .scalar, ok := o.ty == 0 && o.md == 0 })
  | .fput o => some (o, { dst := some .scalar, wr := false, scopes := [2], ords := [0, 2],
                          ok := o.ty == 0 && o.md == 0 && decide (o.dst.toNat ≤ 61),
                          more := [Use.wt .scalar (o.dst.toNat + 1)] })
  | .fget o => some (o, { dst := some .scalar, scopes := [2], ords := [0, 1],
                          ok := o.ty == 0 && o.md == 0 && decide (o.dst.toNat ≤ 61),
                          more := [Use.wt .scalar (o.dst.toNat + 1)] })
  | .waitc o => some (o, { dst := some .scalar, scopes := [5], ords := [1],
                           ok := o.ty == 0 && o.md == 0 && decide (o.dst.toNat ≤ 61),
                           more := [Use.wt .scalar (o.dst.toNat + 1)] })
  | .wbld o => some (o, { dst := some .wslot, ok := o.ty == 0 && decide (o.md.toNat ≤ 7) })
  | .tld o => some (o, { dst := some .tile, ok := o.ty == 0 && decide (o.md.toNat ≤ 5) && decide (o.base.toNat ≤ 62),
                         more := [Use.rd .scalar (o.base.toNat + 1)] })
  | .tst o => some (o, { dst := some .tile, wr := false, more := [Use.rd .scalar (o.base.toNat + 1)],
                         ok := o.ty == 0 && decide (o.md.toNat ≤ 5) && decide (o.base.toNat ≤ 62) })
  | .ald o => some (o, { dst := some .acc, more := [Use.rd .scalar (o.base.toNat + 1)],
                         ok := o.ty == 0 && decide (o.md.toNat ≤ 1) && decide (o.base.toNat ≤ 62) })
  | .ast o => some (o, { dst := some .acc, wr := false, more := [Use.rd .scalar (o.base.toNat + 1)],
                         ok := o.ty == 0 && decide (o.md.toNat ≤ 1) && decide (o.base.toNat ≤ 62) })
  | .tschk o => some (o, { dst := some .scalar, ok := o.ty == 0 && o.md == 0, more := [Use.rd .sysreg 0x30] })
  | .dld o => some (o, { dst := some .dist, pred := true, ok := o.ty == 0 && o.md == 0 })
  | .dst o => some (o, { dst := some .dist, wr := false, pred := true, ok := o.ty == 0 && o.md == 0 })
  | .rput o => some (o, { scopes := [5], ok := o.ty == 0 && decide (o.md.toNat ≤ 2) })
  | .rget o => some (o, { scopes := [5], ok := o.ty == 0 && decide (o.md.toNat ≤ 1) })
  | .rred o => some (o, { scopes := [5],
                          ok := o.ty == 0 && decide (fld o.md 1 0 ≤ 2) && decide (fld o.md 4 2 ≤ 3) })
  | .ratom o => some (o, { dst := some .scalar, scopes := [5], ords := [0, 1, 2, 3],
                           more := [Use.rd .scalar (o.base.toNat + 1)],
                           ok := atomOk o.ty o.md && decide (o.base.toNat ≤ 62) })
  | .rmskRd o => some (o, { dst := some .scalar, scopes := [5], more := [Use.wt .scalar (o.dst.toNat + 1)],
                            ok := o.ty == 0 && o.md == 0 && decide (o.dst.toNat ≤ 61) })
  | .rmskArm o => some (o, { dst := some .scalar, wr := false, scopes := [5],
                             more := [Use.wt .scalar (o.dst.toNat + 1)],
                             ok := o.ty == 0 && o.md == 1 && decide (o.dst.toNat ≤ 61) })
  | .rmskDisarm o => some (o, { dst := some .scalar, wr := false, scopes := [5],
                                more := [Use.wt .scalar (o.dst.toNat + 1)],
                                ok := o.ty == 0 && o.md == 2 && decide (o.dst.toNat ≤ 61) })
  | _ => none

/-- Check 3 of R106 for family M. -/
def mOk (o : FieldsM) (h : MShape) : Bool :=
  h.ok && (h.pred || o.pred == 0) && dstFieldOk h.dst o.dst && h.scopes.contains o.scope.toNat &&
  h.ords.contains o.ord.toNat && (h.addr || (o.base == 0 && o.off == 0)) &&
  (match h.xr with | some k => decide (xrOf o < k.names) | none => true)

/-- The registers a family M word names. -/
def mUses (o : FieldsM) (h : MShape) : List Use :=
  (match h.dst with | some k => [{ kind := k, num := o.dst.toNat, wr := h.wr }] | none => []) ++
  (if h.addr then [Use.rd .scalar o.base.toNat] else []) ++
  (match h.xr with | some k => [Use.rd k (xrOf o)] | none => []) ++ predUse o.pred ++ h.more

/-! ### Family X -/

/-- Part, target and source of an ACVT (R258). -/
def acvtOk (o : FieldsX) : Bool :=
  let f := fld o.md 7 5
  let q := fld o.md 11 10
  (if f = 5 then o.ty == 0 && q == 0
   else decide (f ≤ 4) && (o.ty == 1 || o.ty == 3) && decide (q ≤ (if f ≤ 1 then 0 else if f ≤ 3 then 1 else 3)))

/-- Fields that the accumulator words leave zero (R257). -/
def xPlain (o : FieldsX) : Bool :=
  o.fb == 0 && o.tb == 0 && o.ra == 0 && o.rb == 0 && o.mode == 0 && o.pred == 0

/-- Check 3 of R106 for family X, and the registers each word names (R248, R257, R259, R261). -/
def xRow : Instr → Option (Bool × List Use)
  | .mma o | .mmat o =>
    some (o.pred == 0 && decide (o.ty.toNat ≤ 4) && decide (o.dst.toNat < 32) && decide (o.mode.toNat ≤ 1) &&
            o.md == 0 && !(o.ra == 1 && o.rb == 1 && o.ta == o.tb),
          [Use.wt .acc o.dst.toNat, { kind := .tile, num := o.ta.toNat, wr := o.ra == 1 },
           { kind := .tile, num := o.tb.toNat, wr := o.rb == 1 }, Use.rd .scalar o.fb.toNat,
           Use.rd .scalar o.ps.toNat, Use.rd .sysreg 0x20] ++
          (if o.ra = 1 then [Use.rd .scalar o.ta.toNat] else []) ++
          (if o.rb = 1 then [Use.rd .scalar o.tb.toNat] else []))
  | .mmaw o =>
    some (o.pred == 0 && (o.ty == 1 || o.ty == 2) && decide (o.dst.toNat < 32) && decide (o.mode.toNat ≤ 1) &&
            fld o.md 11 2 == 0 && decide (o.tb.toNat < 32) && o.rb == 0,
          [Use.wt .acc o.dst.toNat, { kind := .tile, num := o.ta.toNat, wr := o.ra == 1 },
           Use.rd .wslot o.tb.toNat, Use.rd .scalar o.fb.toNat, Use.rd .scalar o.ps.toNat, Use.rd .sysreg 0x20] ++
          (if o.ra = 1 then [Use.rd .scalar o.ta.toNat] else []))
  | .aclr o =>
    some (xPlain o && o.ty == 0 && decide (o.dst.toNat < 32) && o.ta == 0 && o.ps == 0 && o.md == 0,
          [Use.wt .acc o.dst.toNat])
  | .ascl o =>
    some (xPlain o && decide (o.ty.toNat ≤ 1) && decide (o.dst.toNat < 32) && o.ta == 0 && o.md == 0,
          [Use.wt .acc o.dst.toNat, Use.rd .scalar o.ps.toNat, Use.rd .sysreg 0x20])
  | .acvt o =>
    some (xPlain o && decide (o.dst.toNat < 64) && o.ta == 0 && acvtOk o,
          [Use.wt .tile o.dst.toNat, Use.rd .acc (fld o.md 4 0), Use.rd .scalar o.ps.toNat, Use.rd .sysreg 0x20] ++
           cbtReads)
  | .tsigTile o =>
    some (xPlain o && o.ty == 0 && o.dst == 0 && o.ps == 0 && o.md == 0,
          [Use.rd .tile o.ta.toNat, Use.wt .sysreg 0x30])
  | .tsigAcc o =>
    some (xPlain o && o.ty == 0 && decide (o.dst.toNat < 32) && o.ta == 0 && o.ps == 0 && o.md == 1,
          [Use.rd .acc o.dst.toNat, Use.wt .sysreg 0x30])
  | _ => none

/-! ### Families B, BJ and S, and pair words -/

/-- Check 3 of R106 for families B and BJ, and the registers each word names (R139, R140, R143). -/
def bRow : Instr → Option (Bool × List Use)
  | .bra o => some (o.ty == 0 && o.pred == 0 && o.d == 0 && o.e == 0, [])
  | .brc o => some (decide (o.ty.toNat ≤ 5) && o.pred == 0 && decide (o.d.toNat < 64) && decide (o.e.toNat < 64),
                    [Use.rd .scalar o.d.toNat, Use.rd .scalar o.e.toNat])
  | .brv o => some (decide (o.ty.toNat ≤ 1) && o.pred == 0 && decide (o.d.toNat < 8), [Use.rd .mask o.d.toNat])
  | .call o => some (o.ty == 0 && o.pred == 0 && decide (o.d.toNat < 64) && o.e == 0, [Use.wt .scalar o.d.toNat])
  | .loop o => some (o.ty == 0 && o.pred == 0 && decide (o.d.toNat < 63) && o.e == 0, [Use.wt .scalar o.d.toNat])
  | _ => none

/-- Check 3 of R106 for family S, and the registers each word names (R64, R159, R341, R356). A SYSC service other than
1 to 3 is the row of NOTIFY, whose service 0 it is, or an unknown one (R358). An unknown service lists no operands; its SS
and IMM22 may hold any value. DESIGN CHOICE (log 90). -/
def sRow : Instr → Option (Bool × List Use)
  | .srd o => some (o.ty == 0 && o.pred == 0 && decide (o.dst.toNat < 64) && sysListed o.sys.toNat && o.ss == 0 &&
                      o.imm == 0, [Use.wt .scalar o.dst.toNat, Use.rd .sysreg o.sys.toNat])
  | .swr o => some (o.ty == 0 && o.pred == 0 && o.dst == 0 && sysWritable o.sys.toNat && o.imm == 0,
                    [Use.rd .scalar o.ss.toNat, Use.wt .sysreg o.sys.toNat])
  | .tkrd o => some (o.ty == 0 && o.pred == 0 && decide (o.dst.toNat < 64) && o.sys == 0 && o.ss == 0 &&
                       decide (o.imm.toNat ≤ 7), [Use.wt .scalar o.dst.toNat])
  | .tkrsv o | .cue o =>
    some (o.ty == 0 && o.pred == 0 && decide (o.dst.toNat < 64) && o.sys == 0 && o.imm == 0,
          [Use.wt .scalar o.dst.toNat, Use.rd .scalar o.ss.toNat])
  | .blst o => some (o.ty == 0 && o.pred == 0 && decide (o.dst.toNat < 64) && o.sys == 0 &&
                       decide (o.imm.toNat ≤ 4096), [Use.wt .scalar o.dst.toNat, Use.rd .scalar o.ss.toNat])
  | .trap o => some (o.ty == 0 && o.pred == 0 && o.dst == 0 && o.sys == 0, [Use.rd .scalar o.ss.toNat])
  | .syscNotify o =>
    some (o.ty == 0 && o.pred == 0 && decide (o.dst.toNat < 64) &&
            !(decide (1 ≤ o.sys.toNat) && decide (o.sys.toNat ≤ 3)),
          [Use.wt .scalar o.dst.toNat, Use.rd .scalar o.ss.toNat])
  | .syscFrec o =>
    some (o.ty == 0 && o.pred == 0 && decide (o.dst.toNat < 64) && o.sys == 1 && o.imm == 0,
          [Use.wt .scalar o.dst.toNat, Use.rd .scalar o.ss.toNat])
  | .syscBrec o =>
    some (o.ty == 0 && o.pred == 0 && decide (o.dst.toNat < 64) && o.sys == 2 && decide (o.imm.toNat ≤ 127),
          [Use.wt .scalar o.dst.toNat, Use.rd .scalar o.ss.toNat])
  | .syscAttest o =>
    some (o.ty == 0 && o.pred == 0 && decide (o.dst.toNat < 64) && o.sys == 3 && o.imm == 0,
          [Use.wt .scalar o.dst.toNat, Use.rd .scalar o.ss.toNat])
  | _ => none

/-- Class of a compact operation (R117). -/
inductive HalfClass where
  | none
  | alu
  | special
  | conversion
  deriving DecidableEq, Repr

/-- Class of a compact opcode; none for CNOP (R117). -/
def halfCls (h : Half) : HalfClass :=
  let c := h.cop.toNat
  if c = 0 then .none else if c ≤ 0x17 then .alu else if c ≤ 0x1E then .special else .conversion

/-- Does a compact operation use CB (R117)? -/
def halfUsesB (h : Half) : Bool :=
  let c := h.cop.toNat
  (decide (1 ≤ c) && decide (c ≤ 0x0C)) || (decide (0x10 ≤ c) && decide (c ≤ 0x15))

/-- Does a compact operation read CD, as the addend of cmad and cfma (R117)? -/
def halfReadsD (h : Half) : Bool := h.cop == 0x04 || h.cop == 0x13

/-- Check 3 of R106 for one half (R117). -/
def halfOk (h : Half) : Bool :=
  let c := h.cop.toNat
  if c = 0 then h.ct == 0 && h.cd == 0 && h.ca == 0 && h.cb == 0
  else if c ≤ 0x0F then h.ct == 0 && (halfUsesB h || h.cb == 0)
  else if c ≤ 0x17 then h.ct != 0 && (halfUsesB h || h.cb == 0)
  else if c ≤ 0x1E then h.ct == 1 && h.cb == 0
  else decide (0x20 ≤ c) && decide (c ≤ 0x25) && h.ct == 0 && h.cb == 0

/-- The vectors a half reads (R118). -/
def halfReads (h : Half) : List Nat :=
  if h.cop = 0 then []
  else [h.ca.toNat] ++ (if halfUsesB h then [h.cb.toNat] else []) ++ (if halfReadsD h then [h.cd.toNat] else [])

/-- The registers a half names. -/
def halfUses (h : Half) : List Use :=
  if h.cop = 0 then [] else Use.wt .vec h.cd.toNat :: (halfReads h).map (Use.rd .vec)

/-! ### All words -/

/-- The words that stand in code: everything but events. -/
def isWord (i : Instr) : Bool :=
  (rShape i).isSome || (iShape i).isSome || (mShape i).isSome || (xRow i).isSome || (bRow i).isSome ||
  (sRow i).isSome ||
  (match i with
   | .pairWord _ | .nop | .waitsp | .qflush | .stepw | .phase | .eret | .halt => true
   | _ => false)

/-- Check 3 of R106 for any word; a word without operands and an event have no fields to check. -/
def fieldsOk (i : Instr) : Bool :=
  match rShape i with
  | some (o, h) => rOk o h
  | none =>
  match iShape i with
  | some (o, h) => iOk o h
  | none =>
  match mShape i with
  | some (o, h) => mOk o h
  | none =>
  match xRow i with
  | some (b, _) => b
  | none =>
  match bRow i with
  | some (b, _) => b
  | none =>
  match sRow i with
  | some (b, _) => b
  | none =>
  match i with
  | .pairWord o => halfOk o.lo && halfOk o.hi
  | _ => true

/-- The registers a word names (R70, R72, R107). -/
def uses (i : Instr) : List Use :=
  match rShape i with
  | some (o, h) => rUses o h
  | none =>
  match iShape i with
  | some (o, h) => iUses o h
  | none =>
  match mShape i with
  | some (o, h) => mUses o h
  | none =>
  match xRow i with
  | some (_, u) => u
  | none =>
  match bRow i with
  | some (_, u) => u
  | none =>
  match sRow i with
  | some (_, u) => u
  | none =>
  match i with
  | .pairWord o => halfUses o.lo ++ halfUses o.hi
  | _ => []

end Sys2Proof.Machine
end

