-- ==== Sys2Proof/WellFormed.lean ====
section
/-! DEFINITION. When a term of Instr is well formed: its fields hold what check 3 of R106 admits. Events carry no fields. -/

namespace Sys2Proof

/-- The fields of a word hold defined values, unused fields are zero, and each register field is a name of its kind. -/
def Instr.wf (i : Instr) : Bool := Machine.fieldsOk i

end Sys2Proof
end

