-- ==== Sys2Proof/Decode.lean ====
section
/-! DEFINITION. The decoder, total on any 64-bit word, rejecting what R106 check 3 rejects; the encoder, written from the
same encoding tables (R108 to R124); and the reading of a word numbered as the opcode table numbers it. -/

namespace Sys2Proof

/-! ### Fields of a word -/

/-- The n bits of w from bit lo up (R108). -/
def slice (n lo : Nat) (w : Nat) : BitVec n := BitVec.ofNat n (w / 2 ^ lo)

/-- Family R (R110). -/
def getR (w : Nat) : FieldsR :=
  { ty := slice 3 51 w, pred := slice 3 48 w, dst := slice 8 40 w, sa := slice 8 32 w, sb := slice 8 24 w,
    sc := slice 8 16 w, bs := slice 6 10 w, bv := slice 1 9 w, bpos := slice 2 7 w, rm := slice 2 5 w,
    md := slice 5 0 w }

/-- Family I (R111). -/
def getI (w : Nat) : FieldsI :=
  { ty := slice 3 51 w, pred := slice 3 48 w, dst := slice 8 40 w, sa := slice 8 32 w, imm := slice 32 0 w }

/-- Family M (R112). -/
def getM (w : Nat) : FieldsM :=
  { ty := slice 3 51 w, pred := slice 3 48 w, dst := slice 8 40 w, base := slice 6 34 w, scope := slice 3 31 w,
    ord := slice 2 29 w, md := slice 5 24 w, off := slice 24 0 w }

/-- Family B (R113). -/
def getB (w : Nat) : FieldsB :=
  { ty := slice 3 51 w, pred := slice 3 48 w, d := slice 8 40 w, e := slice 8 32 w, off := slice 32 0 w }

/-- Family BJ (R113). -/
def getBJ (w : Nat) : FieldsBJ :=
  { ty := slice 3 51 w, pred := slice 3 48 w, d := slice 8 40 w, toff := slice 20 20 w, joff := slice 20 0 w }

/-- Family X (R114). -/
def getX (w : Nat) : FieldsX :=
  { ty := slice 3 51 w, pred := slice 3 48 w, dst := slice 8 40 w, fb := slice 6 34 w, ta := slice 6 28 w,
    tb := slice 6 22 w, ps := slice 6 16 w, ra := slice 1 15 w, rb := slice 1 14 w, mode := slice 2 12 w,
    md := slice 12 0 w }

/-- Family S (R115). -/
def getS (w : Nat) : FieldsS :=
  { ty := slice 3 51 w, pred := slice 3 48 w, dst := slice 8 40 w, sys := slice 12 28 w, ss := slice 6 22 w,
    imm := slice 22 0 w }

/-- One half of a pair word, its low bit at lo (R116). -/
def getHalf (lo w : Nat) : Half :=
  { cop := slice 6 (lo + 26) w, ct := slice 2 (lo + 24) w, cd := slice 8 (lo + 16) w, ca := slice 8 (lo + 8) w,
    cb := slice 8 lo w }

/-- A pair word (R116). -/
def getP (w : Nat) : FieldsP := { hi := getHalf 32 w, lo := getHalf 0 w }

/-! ### Rows that share an opcode -/

/-- PAUSE: TYPE selects the form (R145). -/
def pauseOf (o : FieldsI) : Instr := if o.ty = 1 then .pauseW o else .pause o
/-- KMOV: MOD selects the form (R184). -/
def kmovOf (o : FieldsR) : Instr := if o.md = 1 then .kmovS o else .kmov o
/-- VCBT: TYPE selects the form (R178). -/
def vcbtOf (o : FieldsR) : Instr := if o.ty = 1 then .vcbtDec o else if o.ty = 2 then .vcbtMov o else .vcbtEnc o
/-- WAITB: TYPE selects the form (R234). -/
def waitbOf (o : FieldsI) : Instr := if o.ty = 1 then .waitbT o else .waitb o
/-- TSIG: MOD selects the form (R259). -/
def tsigOf (o : FieldsX) : Instr := if o.md = 1 then .tsigAcc o else .tsigTile o
/-- DTAG: MOD selects the form (R278). -/
def dtagOf (o : FieldsR) : Instr := if o.md = 1 then .dtagSet o else if o.md = 2 then .dtagOr o else .dtagNew o
/-- RMSK: MOD selects the form (R306). -/
def rmskOf (o : FieldsM) : Instr := if o.md = 1 then .rmskArm o else if o.md = 2 then .rmskDisarm o else .rmskRd o
/-- SYSC: SYS names the service (R358). -/
def syscOf (o : FieldsS) : Instr :=
  if o.sys = 1 then .syscFrec o else if o.sys = 2 then .syscBrec o else if o.sys = 3 then .syscAttest o
  else .syscNotify o

/-! ### The opcode map (R120 to R123) -/


/-- Opcodes of family R (R120 to R123). -/
def tableR1 : List (Nat × (FieldsR → Instr)) :=
  [(0x006, Instr.ret), (0x007, Instr.jmpi), (0x010, Instr.spawn), (0x011, Instr.spawnr), (0x013, Instr.enql), (0x022, Instr.mov),
   (0x023, Instr.add), (0x024, Instr.sub), (0x025, Instr.mul), (0x026, Instr.mulh), (0x027, Instr.div), (0x028, Instr.rem), (0x029, Instr.and),
   (0x02A, Instr.or), (0x02B, Instr.xor), (0x02C, Instr.not), (0x02D, Instr.shl), (0x02E, Instr.shr), (0x02F, Instr.sar), (0x030, Instr.rot),
   (0x031, Instr.min), (0x032, Instr.max), (0x033, Instr.cmp), (0x034, Instr.sel)]

/-- Opcodes of family R (R120 to R123). -/
def tableR2 : List (Nat × (FieldsR → Instr)) :=
  [(0x035, Instr.clz), (0x036, Instr.popc), (0x037, Instr.bfe), (0x038, Instr.bfi), (0x080, Instr.vadd), (0x081, Instr.vsub), (0x082, Instr.vmul),
   (0x083, Instr.vmulh), (0x084, Instr.vmad), (0x085, Instr.vand), (0x086, Instr.vor), (0x087, Instr.vxor), (0x088, Instr.vnot),
   (0x089, Instr.vshl), (0x08A, Instr.vshr), (0x08B, Instr.vsar), (0x08C, Instr.vmin), (0x08D, Instr.vmax), (0x08E, Instr.vabs),
   (0x08F, Instr.vcmp), (0x090, Instr.vsel), (0x091, Instr.vclz), (0x092, Instr.vpopc), (0x093, Instr.vbfe)]

/-- Opcodes of family R (R120 to R123). -/
def tableR3 : List (Nat × (FieldsR → Instr)) :=
  [(0x094, Instr.vbfi), (0x095, Instr.vmov), (0x0A0, Instr.vfadd), (0x0A1, Instr.vfsub), (0x0A2, Instr.vfmul), (0x0A3, Instr.vfma),
   (0x0A4, Instr.vfmin), (0x0A5, Instr.vfmax), (0x0A6, Instr.vfabs), (0x0A7, Instr.vfneg), (0x0A8, Instr.vfcmp), (0x0A9, Instr.vfrnd),
   (0x0AA, Instr.vfcvt), (0x0AB, Instr.vfcls), (0x0C0, Instr.vrcp), (0x0C1, Instr.vrsq), (0x0C2, Instr.vsqrt), (0x0C3, Instr.vexp2),
   (0x0C4, Instr.vlog2), (0x0C5, Instr.vsin), (0x0C6, Instr.vcos), (0x0E0, Instr.vshuf), (0x0E1, Instr.vrot), (0x0E2, Instr.vbfly)]

/-- Opcodes of family R (R120 to R123). -/
def tableR4 : List (Nat × (FieldsR → Instr)) :=
  [(0x0E3, Instr.vrdc), (0x0E4, Instr.vscan), (0x0E5, Instr.vbcst), (0x0E6, Instr.vext), (0x0E7, Instr.vins), (0x0E8, Instr.vballot),
   (0x0E9, Instr.vvote), (0x100, Instr.kand), (0x101, Instr.kor), (0x102, Instr.kxor), (0x103, Instr.knot), (0x104, kmovOf),
   (0x105, Instr.exmrd), (0x106, Instr.exmwr), (0x120, vcbtOf), (0x121, Instr.vpack), (0x122, Instr.vunpk), (0x123, Instr.vqhist),
   (0x124, Instr.vqnt), (0x191, Instr.bnkcfg), (0x195, Instr.cpy), (0x196, Instr.cpy2), (0x197, Instr.cpyt), (0x19A, Instr.cpyq)]

/-- Opcodes of family R (R120 to R123). -/
def tableR5 : List (Nat × (FieldsR → Instr)) :=
  [(0x242, Instr.dpt), (0x243, Instr.dset), (0x244, Instr.dadd), (0x245, Instr.dsub), (0x246, Instr.dmul), (0x247, Instr.dmax),
   (0x248, Instr.dmin), (0x249, Instr.daff), (0x24A, Instr.dfn), (0x24B, Instr.dmix), (0x24C, Instr.dcond), (0x24D, dtagOf),
   (0x24E, Instr.dtgrd), (0x24F, Instr.dmom), (0x250, Instr.dqnt), (0x251, Instr.dcdf), (0x285, Instr.vrdcm)]

/-- Opcodes of family R (R120 to R123). -/
def tableR : List (Nat × (FieldsR → Instr)) := tableR1 ++ tableR2 ++ tableR3 ++ tableR4 ++ tableR5

/-- Opcodes of family I (R120 to R123). -/
def tableI : List (Nat × (FieldsI → Instr)) :=
  [(0x004, Instr.join), (0x009, Instr.exit), (0x00A, pauseOf), 
   (0x018, Instr.bari), (0x019, Instr.bara), (0x01A, Instr.barw), (0x01B, Instr.bars), (0x020, Instr.movi),
   (0x021, Instr.movh), (0x039, Instr.adda), (0x096, Instr.vmovs), (0x198, Instr.sealb), (0x199, waitbOf)]

/-- Opcodes of family M (R120 to R123). -/
def tableM1 : List (Nat × (FieldsM → Instr)) :=
  [(0x180, Instr.ld), (0x181, Instr.st), (0x182, Instr.lda), (0x183, Instr.stl), (0x184, Instr.vld), (0x185, Instr.vst), (0x186, Instr.vldg),
   (0x187, Instr.vsts), (0x188, Instr.vldb), (0x189, Instr.at), (0x18A, Instr.acas), (0x18B, Instr.vat), (0x18C, Instr.fence),
   (0x18E, Instr.pref), (0x18F, Instr.lock), (0x190, Instr.unlk), (0x192, Instr.fput), (0x193, Instr.fget),
   (0x194, Instr.waitc), (0x203, Instr.wbld), (0x204, Instr.tld), (0x205, Instr.tst), (0x206, Instr.ald)]

/-- Opcodes of family M (R120 to R123). -/
def tableM2 : List (Nat × (FieldsM → Instr)) :=
  [(0x207, Instr.ast), (0x20C, Instr.tschk), (0x240, Instr.dld), (0x241, Instr.dst), (0x280, Instr.rput), (0x281, Instr.rget),
   (0x282, Instr.ratom), (0x283, Instr.rred), (0x284, rmskOf)]

/-- Opcodes of family M (R120 to R123). -/
def tableM : List (Nat × (FieldsM → Instr)) := tableM1 ++ tableM2

/-- Opcodes of family B (R120 to R123). -/
def tableB : List (Nat × (FieldsB → Instr)) :=
  [(0x001, Instr.bra), (0x002, Instr.brc), (0x005, Instr.call), (0x008, Instr.loop)]

/-- Opcodes of family BJ (R120 to R123). -/
def tableBJ : List (Nat × (FieldsBJ → Instr)) :=
  [(0x003, Instr.brv)]

/-- Opcodes of family X (R120 to R123). -/
def tableX : List (Nat × (FieldsX → Instr)) :=
  [(0x200, Instr.mma), (0x201, Instr.mmat), (0x202, Instr.mmaw), (0x208, Instr.aclr), (0x209, Instr.ascl), (0x20A, Instr.acvt),
   (0x20B, tsigOf)]

/-- Opcodes of family S (R120 to R123). -/
def tableS : List (Nat × (FieldsS → Instr)) :=
  [(0x040, Instr.srd), (0x041, Instr.swr), (0x2C0, Instr.tkrd), (0x2C1, Instr.tkrsv), (0x2C2, Instr.cue), (0x2C3, Instr.blst),
   (0x2D0, Instr.trap), (0x2D1, syscOf)]

/-- Opcodes of the words without operands, whose other fields are all zero (R145, R148, R153, R221, R356). -/
def tableN : List (Nat × Instr) :=
  [(0x000, .nop), (0x012, .waitsp), (0x014, .qflush), (0x01C, .stepw), (0x18D, .phase), (0x2D2, .eret), (0x2D3, .halt)]

/-- The row of an opcode in a table. -/
def row {α : Type} (k : Nat) : List (Nat × α) → Option α
  | [] => none
  | (i, x) :: r => if i = k then some x else row k r

/-- The instruction a word stands for by its opcode and form, before its fields are checked. -/
def decodeOpcode (w : Nat) : Option Instr :=
  let k := w / 2 ^ 54 % 2 ^ 10
  match row k tableN with
  | some i => if w % 2 ^ 54 = 0 then some i else none
  | none =>
  match row k tableR with
  | some f => some (f (getR w))
  | none =>
  match row k tableI with
  | some f => some (f (getI w))
  | none =>
  match row k tableM with
  | some f => some (f (getM w))
  | none =>
  match row k tableB with
  | some f => some (f (getB w))
  | none =>
  match row k tableBJ with
  | some f => some (f (getBJ w))
  | none =>
  match row k tableX with
  | some f => some (f (getX w))
  | none =>
  match row k tableS with
  | some f => some (f (getS w))
  | none => none

/-- Why a word is not an instruction (R106 check 3): its opcode is not assigned, or a word without operands has a field
that is not zero; or a field holds no defined value. -/
inductive Reject where
  | unassigned (opcode : Nat)
  | badField (i : Instr)
  deriving DecidableEq, Repr

/-- Decode a word, as a pair word or not, or say why it is refused. -/
def decodeNamed (pair : Bool) (w : Word) : Except Reject Instr :=
  let r := if pair then some (.pairWord (getP w.toNat)) else decodeOpcode w.toNat
  match r with
  | none => .error (.unassigned (w.toNat / 2 ^ 54 % 2 ^ 10))
  | some i => if i.wf then .ok i else .error (.badField i)

/-- The instruction of a word, when it is one. -/
def decodeWord (pair : Bool) (w : Word) : Option Instr :=
  match decodeNamed pair w with
  | .ok i => some i
  | .error _ => none

/-- Words of the opcode table: 64 bits, not a pair word. -/
def decodeTableWord (nbits w : Nat) : Option Instr := decodeWord false (BitVec.ofNat 64 (w % 2 ^ nbits))

/-! ### The encoder -/

/-- Family R (R110). -/
def putR (k : Nat) (o : FieldsR) : Nat :=
  k * 2 ^ 54 + o.ty.toNat * 2 ^ 51 + o.pred.toNat * 2 ^ 48 + o.dst.toNat * 2 ^ 40 + o.sa.toNat * 2 ^ 32 +
  o.sb.toNat * 2 ^ 24 + o.sc.toNat * 2 ^ 16 + o.bs.toNat * 2 ^ 10 + o.bv.toNat * 2 ^ 9 + o.bpos.toNat * 2 ^ 7 +
  o.rm.toNat * 2 ^ 5 + o.md.toNat

/-- Family I (R111). -/
def putI (k : Nat) (o : FieldsI) : Nat :=
  k * 2 ^ 54 + o.ty.toNat * 2 ^ 51 + o.pred.toNat * 2 ^ 48 + o.dst.toNat * 2 ^ 40 + o.sa.toNat * 2 ^ 32 + o.imm.toNat

/-- Family M (R112). -/
def putM (k : Nat) (o : FieldsM) : Nat :=
  k * 2 ^ 54 + o.ty.toNat * 2 ^ 51 + o.pred.toNat * 2 ^ 48 + o.dst.toNat * 2 ^ 40 + o.base.toNat * 2 ^ 34 +
  o.scope.toNat * 2 ^ 31 + o.ord.toNat * 2 ^ 29 + o.md.toNat * 2 ^ 24 + o.off.toNat

/-- Family B (R113). -/
def putB (k : Nat) (o : FieldsB) : Nat :=
  k * 2 ^ 54 + o.ty.toNat * 2 ^ 51 + o.pred.toNat * 2 ^ 48 + o.d.toNat * 2 ^ 40 + o.e.toNat * 2 ^ 32 + o.off.toNat

/-- Family BJ (R113). -/
def putBJ (k : Nat) (o : FieldsBJ) : Nat :=
  k * 2 ^ 54 + o.ty.toNat * 2 ^ 51 + o.pred.toNat * 2 ^ 48 + o.d.toNat * 2 ^ 40 + o.toff.toNat * 2 ^ 20 + o.joff.toNat

/-- Family X (R114). -/
def putX (k : Nat) (o : FieldsX) : Nat :=
  k * 2 ^ 54 + o.ty.toNat * 2 ^ 51 + o.pred.toNat * 2 ^ 48 + o.dst.toNat * 2 ^ 40 + o.fb.toNat * 2 ^ 34 +
  o.ta.toNat * 2 ^ 28 + o.tb.toNat * 2 ^ 22 + o.ps.toNat * 2 ^ 16 + o.ra.toNat * 2 ^ 15 + o.rb.toNat * 2 ^ 14 +
  o.mode.toNat * 2 ^ 12 + o.md.toNat

/-- Family S (R115). -/
def putS (k : Nat) (o : FieldsS) : Nat :=
  k * 2 ^ 54 + o.ty.toNat * 2 ^ 51 + o.pred.toNat * 2 ^ 48 + o.dst.toNat * 2 ^ 40 + o.sys.toNat * 2 ^ 28 +
  o.ss.toNat * 2 ^ 22 + o.imm.toNat

/-- One half of a pair word (R116). -/
def putHalf (h : Half) : Nat :=
  h.cop.toNat * 2 ^ 26 + h.ct.toNat * 2 ^ 24 + h.cd.toNat * 2 ^ 16 + h.ca.toNat * 2 ^ 8 + h.cb.toNat

/-- A pair word (R116). -/
def putP (o : FieldsP) : Nat := putHalf o.hi * 2 ^ 32 + putHalf o.lo

/-- The word of an instruction and whether its PAIR bit is set; an event has none. -/
def encode : Instr → Option (Bool × Word)
  | .ret o => some (false, BitVec.ofNat 64 (putR 0x006 o))
  | .jmpi o => some (false, BitVec.ofNat 64 (putR 0x007 o))
  | .spawn o => some (false, BitVec.ofNat 64 (putR 0x010 o))
  | .spawnr o => some (false, BitVec.ofNat 64 (putR 0x011 o))
  | .enql o => some (false, BitVec.ofNat 64 (putR 0x013 o))
  | .mov o => some (false, BitVec.ofNat 64 (putR 0x022 o))
  | .add o => some (false, BitVec.ofNat 64 (putR 0x023 o))
  | .sub o => some (false, BitVec.ofNat 64 (putR 0x024 o))
  | .mul o => some (false, BitVec.ofNat 64 (putR 0x025 o))
  | .mulh o => some (false, BitVec.ofNat 64 (putR 0x026 o))
  | .div o => some (false, BitVec.ofNat 64 (putR 0x027 o))
  | .rem o => some (false, BitVec.ofNat 64 (putR 0x028 o))
  | .and o => some (false, BitVec.ofNat 64 (putR 0x029 o))
  | .or o => some (false, BitVec.ofNat 64 (putR 0x02A o))
  | .xor o => some (false, BitVec.ofNat 64 (putR 0x02B o))
  | .not o => some (false, BitVec.ofNat 64 (putR 0x02C o))
  | .shl o => some (false, BitVec.ofNat 64 (putR 0x02D o))
  | .shr o => some (false, BitVec.ofNat 64 (putR 0x02E o))
  | .sar o => some (false, BitVec.ofNat 64 (putR 0x02F o))
  | .rot o => some (false, BitVec.ofNat 64 (putR 0x030 o))
  | .min o => some (false, BitVec.ofNat 64 (putR 0x031 o))
  | .max o => some (false, BitVec.ofNat 64 (putR 0x032 o))
  | .cmp o => some (false, BitVec.ofNat 64 (putR 0x033 o))
  | .sel o => some (false, BitVec.ofNat 64 (putR 0x034 o))
  | .clz o => some (false, BitVec.ofNat 64 (putR 0x035 o))
  | .popc o => some (false, BitVec.ofNat 64 (putR 0x036 o))
  | .bfe o => some (false, BitVec.ofNat 64 (putR 0x037 o))
  | .bfi o => some (false, BitVec.ofNat 64 (putR 0x038 o))
  | .vadd o => some (false, BitVec.ofNat 64 (putR 0x080 o))
  | .vsub o => some (false, BitVec.ofNat 64 (putR 0x081 o))
  | .vmul o => some (false, BitVec.ofNat 64 (putR 0x082 o))
  | .vmulh o => some (false, BitVec.ofNat 64 (putR 0x083 o))
  | .vmad o => some (false, BitVec.ofNat 64 (putR 0x084 o))
  | .vand o => some (false, BitVec.ofNat 64 (putR 0x085 o))
  | .vor o => some (false, BitVec.ofNat 64 (putR 0x086 o))
  | .vxor o => some (false, BitVec.ofNat 64 (putR 0x087 o))
  | .vnot o => some (false, BitVec.ofNat 64 (putR 0x088 o))
  | .vshl o => some (false, BitVec.ofNat 64 (putR 0x089 o))
  | .vshr o => some (false, BitVec.ofNat 64 (putR 0x08A o))
  | .vsar o => some (false, BitVec.ofNat 64 (putR 0x08B o))
  | .vmin o => some (false, BitVec.ofNat 64 (putR 0x08C o))
  | .vmax o => some (false, BitVec.ofNat 64 (putR 0x08D o))
  | .vabs o => some (false, BitVec.ofNat 64 (putR 0x08E o))
  | .vcmp o => some (false, BitVec.ofNat 64 (putR 0x08F o))
  | .vsel o => some (false, BitVec.ofNat 64 (putR 0x090 o))
  | .vclz o => some (false, BitVec.ofNat 64 (putR 0x091 o))
  | .vpopc o => some (false, BitVec.ofNat 64 (putR 0x092 o))
  | .vbfe o => some (false, BitVec.ofNat 64 (putR 0x093 o))
  | .vbfi o => some (false, BitVec.ofNat 64 (putR 0x094 o))
  | .vmov o => some (false, BitVec.ofNat 64 (putR 0x095 o))
  | .vfadd o => some (false, BitVec.ofNat 64 (putR 0x0A0 o))
  | .vfsub o => some (false, BitVec.ofNat 64 (putR 0x0A1 o))
  | .vfmul o => some (false, BitVec.ofNat 64 (putR 0x0A2 o))
  | .vfma o => some (false, BitVec.ofNat 64 (putR 0x0A3 o))
  | .vfmin o => some (false, BitVec.ofNat 64 (putR 0x0A4 o))
  | .vfmax o => some (false, BitVec.ofNat 64 (putR 0x0A5 o))
  | .vfabs o => some (false, BitVec.ofNat 64 (putR 0x0A6 o))
  | .vfneg o => some (false, BitVec.ofNat 64 (putR 0x0A7 o))
  | .vfcmp o => some (false, BitVec.ofNat 64 (putR 0x0A8 o))
  | .vfrnd o => some (false, BitVec.ofNat 64 (putR 0x0A9 o))
  | .vfcvt o => some (false, BitVec.ofNat 64 (putR 0x0AA o))
  | .vfcls o => some (false, BitVec.ofNat 64 (putR 0x0AB o))
  | .vrcp o => some (false, BitVec.ofNat 64 (putR 0x0C0 o))
  | .vrsq o => some (false, BitVec.ofNat 64 (putR 0x0C1 o))
  | .vsqrt o => some (false, BitVec.ofNat 64 (putR 0x0C2 o))
  | .vexp2 o => some (false, BitVec.ofNat 64 (putR 0x0C3 o))
  | .vlog2 o => some (false, BitVec.ofNat 64 (putR 0x0C4 o))
  | .vsin o => some (false, BitVec.ofNat 64 (putR 0x0C5 o))
  | .vcos o => some (false, BitVec.ofNat 64 (putR 0x0C6 o))
  | .vshuf o => some (false, BitVec.ofNat 64 (putR 0x0E0 o))
  | .vrot o => some (false, BitVec.ofNat 64 (putR 0x0E1 o))
  | .vbfly o => some (false, BitVec.ofNat 64 (putR 0x0E2 o))
  | .vrdc o => some (false, BitVec.ofNat 64 (putR 0x0E3 o))
  | .vscan o => some (false, BitVec.ofNat 64 (putR 0x0E4 o))
  | .vbcst o => some (false, BitVec.ofNat 64 (putR 0x0E5 o))
  | .vext o => some (false, BitVec.ofNat 64 (putR 0x0E6 o))
  | .vins o => some (false, BitVec.ofNat 64 (putR 0x0E7 o))
  | .vballot o => some (false, BitVec.ofNat 64 (putR 0x0E8 o))
  | .vvote o => some (false, BitVec.ofNat 64 (putR 0x0E9 o))
  | .kand o => some (false, BitVec.ofNat 64 (putR 0x100 o))
  | .kor o => some (false, BitVec.ofNat 64 (putR 0x101 o))
  | .kxor o => some (false, BitVec.ofNat 64 (putR 0x102 o))
  | .knot o => some (false, BitVec.ofNat 64 (putR 0x103 o))
  | .kmov o => some (false, BitVec.ofNat 64 (putR 0x104 o))
  | .kmovS o => some (false, BitVec.ofNat 64 (putR 0x104 o))
  | .exmrd o => some (false, BitVec.ofNat 64 (putR 0x105 o))
  | .exmwr o => some (false, BitVec.ofNat 64 (putR 0x106 o))
  | .vcbtEnc o => some (false, BitVec.ofNat 64 (putR 0x120 o))
  | .vcbtDec o => some (false, BitVec.ofNat 64 (putR 0x120 o))
  | .vcbtMov o => some (false, BitVec.ofNat 64 (putR 0x120 o))
  | .vpack o => some (false, BitVec.ofNat 64 (putR 0x121 o))
  | .vunpk o => some (false, BitVec.ofNat 64 (putR 0x122 o))
  | .vqhist o => some (false, BitVec.ofNat 64 (putR 0x123 o))
  | .vqnt o => some (false, BitVec.ofNat 64 (putR 0x124 o))
  | .bnkcfg o => some (false, BitVec.ofNat 64 (putR 0x191 o))
  | .cpy o => some (false, BitVec.ofNat 64 (putR 0x195 o))
  | .cpy2 o => some (false, BitVec.ofNat 64 (putR 0x196 o))
  | .cpyt o => some (false, BitVec.ofNat 64 (putR 0x197 o))
  | .cpyq o => some (false, BitVec.ofNat 64 (putR 0x19A o))
  | .dpt o => some (false, BitVec.ofNat 64 (putR 0x242 o))
  | .dset o => some (false, BitVec.ofNat 64 (putR 0x243 o))
  | .dadd o => some (false, BitVec.ofNat 64 (putR 0x244 o))
  | .dsub o => some (false, BitVec.ofNat 64 (putR 0x245 o))
  | .dmul o => some (false, BitVec.ofNat 64 (putR 0x246 o))
  | .dmax o => some (false, BitVec.ofNat 64 (putR 0x247 o))
  | .dmin o => some (false, BitVec.ofNat 64 (putR 0x248 o))
  | .daff o => some (false, BitVec.ofNat 64 (putR 0x249 o))
  | .dfn o => some (false, BitVec.ofNat 64 (putR 0x24A o))
  | .dmix o => some (false, BitVec.ofNat 64 (putR 0x24B o))
  | .dcond o => some (false, BitVec.ofNat 64 (putR 0x24C o))
  | .dtagNew o => some (false, BitVec.ofNat 64 (putR 0x24D o))
  | .dtagSet o => some (false, BitVec.ofNat 64 (putR 0x24D o))
  | .dtagOr o => some (false, BitVec.ofNat 64 (putR 0x24D o))
  | .dtgrd o => some (false, BitVec.ofNat 64 (putR 0x24E o))
  | .dmom o => some (false, BitVec.ofNat 64 (putR 0x24F o))
  | .dqnt o => some (false, BitVec.ofNat 64 (putR 0x250 o))
  | .dcdf o => some (false, BitVec.ofNat 64 (putR 0x251 o))
  | .vrdcm o => some (false, BitVec.ofNat 64 (putR 0x285 o))
  | .nop => some (false, BitVec.ofNat 64 (0x000 * 2 ^ 54))
  | .join o => some (false, BitVec.ofNat 64 (putI 0x004 o))
  | .exit o => some (false, BitVec.ofNat 64 (putI 0x009 o))
  | .pause o => some (false, BitVec.ofNat 64 (putI 0x00A o))
  | .pauseW o => some (false, BitVec.ofNat 64 (putI 0x00A o))
  | .waitsp => some (false, BitVec.ofNat 64 (0x012 * 2 ^ 54))
  | .qflush => some (false, BitVec.ofNat 64 (0x014 * 2 ^ 54))
  | .bari o => some (false, BitVec.ofNat 64 (putI 0x018 o))
  | .bara o => some (false, BitVec.ofNat 64 (putI 0x019 o))
  | .barw o => some (false, BitVec.ofNat 64 (putI 0x01A o))
  | .bars o => some (false, BitVec.ofNat 64 (putI 0x01B o))
  | .stepw => some (false, BitVec.ofNat 64 (0x01C * 2 ^ 54))
  | .movi o => some (false, BitVec.ofNat 64 (putI 0x020 o))
  | .movh o => some (false, BitVec.ofNat 64 (putI 0x021 o))
  | .adda o => some (false, BitVec.ofNat 64 (putI 0x039 o))
  | .vmovs o => some (false, BitVec.ofNat 64 (putI 0x096 o))
  | .sealb o => some (false, BitVec.ofNat 64 (putI 0x198 o))
  | .waitb o => some (false, BitVec.ofNat 64 (putI 0x199 o))
  | .waitbT o => some (false, BitVec.ofNat 64 (putI 0x199 o))
  | .ld o => some (false, BitVec.ofNat 64 (putM 0x180 o))
  | .st o => some (false, BitVec.ofNat 64 (putM 0x181 o))
  | .lda o => some (false, BitVec.ofNat 64 (putM 0x182 o))
  | .stl o => some (false, BitVec.ofNat 64 (putM 0x183 o))
  | .vld o => some (false, BitVec.ofNat 64 (putM 0x184 o))
  | .vst o => some (false, BitVec.ofNat 64 (putM 0x185 o))
  | .vldg o => some (false, BitVec.ofNat 64 (putM 0x186 o))
  | .vsts o => some (false, BitVec.ofNat 64 (putM 0x187 o))
  | .vldb o => some (false, BitVec.ofNat 64 (putM 0x188 o))
  | .at o => some (false, BitVec.ofNat 64 (putM 0x189 o))
  | .acas o => some (false, BitVec.ofNat 64 (putM 0x18A o))
  | .vat o => some (false, BitVec.ofNat 64 (putM 0x18B o))
  | .fence o => some (false, BitVec.ofNat 64 (putM 0x18C o))
  | .phase => some (false, BitVec.ofNat 64 (0x18D * 2 ^ 54))
  | .pref o => some (false, BitVec.ofNat 64 (putM 0x18E o))
  | .lock o => some (false, BitVec.ofNat 64 (putM 0x18F o))
  | .unlk o => some (false, BitVec.ofNat 64 (putM 0x190 o))
  | .fput o => some (false, BitVec.ofNat 64 (putM 0x192 o))
  | .fget o => some (false, BitVec.ofNat 64 (putM 0x193 o))
  | .waitc o => some (false, BitVec.ofNat 64 (putM 0x194 o))
  | .wbld o => some (false, BitVec.ofNat 64 (putM 0x203 o))
  | .tld o => some (false, BitVec.ofNat 64 (putM 0x204 o))
  | .tst o => some (false, BitVec.ofNat 64 (putM 0x205 o))
  | .ald o => some (false, BitVec.ofNat 64 (putM 0x206 o))
  | .ast o => some (false, BitVec.ofNat 64 (putM 0x207 o))
  | .tschk o => some (false, BitVec.ofNat 64 (putM 0x20C o))
  | .dld o => some (false, BitVec.ofNat 64 (putM 0x240 o))
  | .dst o => some (false, BitVec.ofNat 64 (putM 0x241 o))
  | .rput o => some (false, BitVec.ofNat 64 (putM 0x280 o))
  | .rget o => some (false, BitVec.ofNat 64 (putM 0x281 o))
  | .ratom o => some (false, BitVec.ofNat 64 (putM 0x282 o))
  | .rred o => some (false, BitVec.ofNat 64 (putM 0x283 o))
  | .rmskRd o => some (false, BitVec.ofNat 64 (putM 0x284 o))
  | .rmskArm o => some (false, BitVec.ofNat 64 (putM 0x284 o))
  | .rmskDisarm o => some (false, BitVec.ofNat 64 (putM 0x284 o))
  | .bra o => some (false, BitVec.ofNat 64 (putB 0x001 o))
  | .brc o => some (false, BitVec.ofNat 64 (putB 0x002 o))
  | .call o => some (false, BitVec.ofNat 64 (putB 0x005 o))
  | .loop o => some (false, BitVec.ofNat 64 (putB 0x008 o))
  | .brv o => some (false, BitVec.ofNat 64 (putBJ 0x003 o))
  | .mma o => some (false, BitVec.ofNat 64 (putX 0x200 o))
  | .mmat o => some (false, BitVec.ofNat 64 (putX 0x201 o))
  | .mmaw o => some (false, BitVec.ofNat 64 (putX 0x202 o))
  | .aclr o => some (false, BitVec.ofNat 64 (putX 0x208 o))
  | .ascl o => some (false, BitVec.ofNat 64 (putX 0x209 o))
  | .acvt o => some (false, BitVec.ofNat 64 (putX 0x20A o))
  | .tsigTile o => some (false, BitVec.ofNat 64 (putX 0x20B o))
  | .tsigAcc o => some (false, BitVec.ofNat 64 (putX 0x20B o))
  | .srd o => some (false, BitVec.ofNat 64 (putS 0x040 o))
  | .swr o => some (false, BitVec.ofNat 64 (putS 0x041 o))
  | .tkrd o => some (false, BitVec.ofNat 64 (putS 0x2C0 o))
  | .tkrsv o => some (false, BitVec.ofNat 64 (putS 0x2C1 o))
  | .cue o => some (false, BitVec.ofNat 64 (putS 0x2C2 o))
  | .blst o => some (false, BitVec.ofNat 64 (putS 0x2C3 o))
  | .trap o => some (false, BitVec.ofNat 64 (putS 0x2D0 o))
  | .syscNotify o => some (false, BitVec.ofNat 64 (putS 0x2D1 o))
  | .syscFrec o => some (false, BitVec.ofNat 64 (putS 0x2D1 o))
  | .syscBrec o => some (false, BitVec.ofNat 64 (putS 0x2D1 o))
  | .syscAttest o => some (false, BitVec.ofNat 64 (putS 0x2D1 o))
  | .eret => some (false, BitVec.ofNat 64 (0x2D2 * 2 ^ 54))
  | .halt => some (false, BitVec.ofNat 64 (0x2D3 * 2 ^ 54))
  | .pairWord o => some (true, BitVec.ofNat 64 (putP o))
  | _ => none

end Sys2Proof
end

