-- ==== Sys2Proof/Machine/State.lean ====
section
/-! DEFINITION. The state of one NQ-4 package as plain data: memory and core images, cores, clusters, dies, regions,
crews, copies and transfers, launch and event queues, power, fabric, boot and debug; and the state right after reset. -/

namespace Sys2Proof.Machine

/-- Why a step can stop. -/
inductive Fault where
  /-- Raised when an instruction word is executed while no path is in focus, or the path in focus does not exist. Safe:
  a step runs a word only for a path that it has put in focus. -/
  | noPath
  deriving DecidableEq, Repr

/-- Why an instruction can be refused. -/
inductive Refusal where
  /-- Raised by a dispatch arm of an instruction that has no meaning in this model yet. Safe: nothing runs. -/
  | notModelled (mnemonic : String)
  deriving DecidableEq, Repr

/-- Bytes by address, canonical: addresses strictly rise and no listed byte is zero; an unlisted byte reads zero. -/
abbrev Memory := List Host.Cell

/-! ### Crews -/

/-- One unit of the scoreboard (R72, R160, R251, R271): a granule, scalar, mask, tag, system register, weight slot. -/
inductive SbUnit where
  | granule (g : Nat)
  | scalar (n : Nat)
  | mask (n : Nat)
  | tag (n : Nat)
  | sysreg (n : Nat)
  | wslot (n : Nat)
  deriving DecidableEq, Repr

/-- An issued and uncompleted instruction of a path (R72). olds holds what the units it writes held before it, which
the other peer may still read (R63, R165); matrix says that the array performs it (R239). -/
structure Flight where
  reads : List SbUnit
  writes : List SbUnit
  olds : List (SbUnit × Nat)
  matrix : Bool := false
  deriving DecidableEq, Repr

/-- A divergence that a side belongs to (R143): its identity, its JOIN address, and the members of the side it split. -/
structure Frame where
  div : Nat
  join : Word
  outer : Mask
  deriving DecidableEq, Repr

/-- A side of a divergence (R39, R143, R144). The head of frames is the side's own divergence. -/
structure Side where
  exm : Mask
  members : Mask
  pc : Word
  frames : List Frame
  reached : Bool
  pushed : Nat
  waited : Nat
  deriving DecidableEq, Repr

/-- A memory fault as translation finds it (R349, R361, R364). lacksW says that W is the one right that the access misses. -/
structure MemFault where
  cls : Nat
  cause : Nat
  va : Word
  replayable : Bool
  lacksW : Bool := false
  deriving DecidableEq, Repr

/-- Where a trapped path resumes (R349). -/
inductive Resume where
  | word
  | after
  | clause
  deriving DecidableEq, Repr

/-- The Snuffer's record of a barrier fault (R52). -/
structure BarrierRec where
  slate : Word
  core : Nat
  barrier : Nat
  cause : Nat
  expect : Nat
  arrived : Nat
  waiting : BitVec 32
  exited : BitVec 32
  gen : Nat
  deriving DecidableEq, Repr

/-- A trap as it is raised (R349, R355): slate is SLATE at its detection, word the index of the trapping word, inst the WORD
of its record, batch the serial number of the copy batch whose trap it is, bar the Snuffer's record of a barrier fault. -/
structure Trap where
  slate : Word
  cls : Nat
  cause : Nat
  val : Word
  code : Nat
  word : Nat
  inst : Word
  resume : Resume
  batch : Option Nat
  bar : Option BarrierRec
  deriving DecidableEq, Repr

/-- The 64-byte fault record (R355) without its TYPE. pkg is the package of a transfer's record (R311), for which R355 gives no
place in the 64 bytes (log 97). -/
structure FaultRec where
  slate : Word
  trapc : Word
  trapv : Word
  trappc : Word
  word : Word
  rcb : Word
  core : Nat
  slot : Nat
  batch : Nat
  pkg : Option (BitVec 10) := none
  deriving DecidableEq, Repr

/-- A format block as a matrix instruction holds it from hand-off on (R245, R247, R267): element formats, special-value
choices, scales (format, block length, patterns) and codebooks, and for MMAW the image of the weight slot (R253, R254). -/
structure MBlock where
  afmt : Nat
  bfmt : Nat
  zsign : Bool
  nanc : Bool
  scaleA : Option (Nat × Nat × List Nat)
  scaleB : Option (Nat × Nat × List Nat)
  cbA : List Nat
  cbB : List Nat
  image : List Byte
  deriving DecidableEq, Repr

/-- An exact value (R79): a NaN (signalling or quiet), an infinity, or (-1)^neg times m times 2^e. -/
inductive FVal where
  | nan (sig : Bool)
  | inf (neg : Bool)
  | fin (neg : Bool) (m : Nat) (e : Int)
  deriving DecidableEq, Repr

/-- An element of the accumulator in a product: whether the product computes it, its input pattern, the exact products that have
entered it and the NaNs among their factors in order (R94), the pattern that comes out, and whether that is a NaN of an invalid
combination alone (R265). -/
structure ArrayCell where
  computed : Bool
  c : Nat
  ps : List FVal
  nans : List Nat
  out : Nat
  invalid : Bool
  deriving DecidableEq, Repr

/-- A matrix product under way (R240, R262, R263): its identity, the slice it began at, the slices in each staging tile, its
block, limits and scalar of PS, the bytes of A and B as it has read or fetched them, the accumulator as it was, what the array
kept of its elements where the product had been stopped (R265, R266), and since when it waits. -/
structure SliceRun where
  id : Nat
  base : Nat
  mapA : BitVec 4
  mapB : BitVec 4
  blk : MBlock
  lim : Nat × Nat × Nat
  ps : Word
  opA : List Byte
  opB : List Byte
  acc0 : List Byte
  held : List ArrayCell
  since : Nat
  deriving DecidableEq, Repr

/-- Where a byte lies: a physical address, a byte of a scratch bank, or a wake register. -/
inductive Loc where
  | mem (pa : Nat)
  | bank (b off : Nat)
  | wake (pkg q : Nat)
  deriving DecidableEq, Repr

/-- The fabric descriptor as read (R305). -/
structure FabDesc where
  src : Word
  dst : Word
  len : Nat
  pkg : BitVec 10
  rank : BitVec 6
  cnta : Word
  maska : Word
  deadline : Word
  deriving DecidableEq, Repr

/-- What a copy does (R234, R235, R306). -/
inductive CopyKind where
  | lin (dst src : Word) (len : Nat)
  | rows (dst src dstr sstr : Word) (rows cols : Nat)
  | trans (e : Nat) (dst src dstr sstr : Word) (rows cols : Nat)
  | list (base : Word) (n : Nat) (cur : Option (Word × Word × Nat))
  | put (cls : XferClass) (d : FabDesc)
  | get (ordered : Bool) (d : FabDesc)
  | red (cls : XferClass) (et : RedType) (d : FabDesc)
  deriving DecidableEq, Repr

/-- What a path waits for (R44, R56, R104, R364, R383). entry is a WBAR entry wait; got of a WAITC is the first value that
met its condition; ratom keeps the request as it was sent, with the package it went to (R315); room that a copy or transfer word
waits in its engine for room, its release made and its descriptor read (R211, R305); held that its trap waits for the handler
path; stopped that it stands at its resume point until its region runs again. -/
inductive Wait where
  | none
  | atJoin
  | barrier (b gen : Nat)
  | entry (b gen : Nat)
  | step (gen : Nat)
  | paused (granule : Option Nat) (expiry : Option Nat)
  | waitc (reg va : Nat) (loc : Loc) (target timeout t0 : Word) (got : Option Word)
  | waitb (batches : List Nat) (timed : Option (Nat × Word × Word))
  | sysc (svc : Nat) (dst : Nat) (arg : Word) (imm : Nat) (since : Nat)
  | ratom (q : AtomReq) (dst : Nat) (acquire : Bool) (pkg : BitVec 10)
  | slices (run : SliceRun)
  | fault (f : MemFault) (since : Nat)
  | room (k : CopyKind)
  | held (t : Trap)
  | stopped
  deriving DecidableEq, Repr

/-- The five view registers (R68). -/
structure Views where
  v : BitVec 32
  w : BitVec 32
  t : BitVec 32
  a : BitVec 32
  d : BitVec 32
  deriving DecidableEq, Repr

/-- Where a path stands (R351): its running side with the program counter, the clause it is in, the word, the completed mask
of a gather, its wait, and the views under which a resumable instruction that is under way there has resolved its registers
(R160). -/
structure Spot where
  side : Side
  hdr : Word
  words : List Word
  idx : Nat
  inside : Bool
  gather : Mask
  wait : Wait
  resolved : Option Views := none
  deriving DecidableEq, Repr

/-- One path (R12, R39): the running side, its stack, the clause it stands in, its scoreboard. age is the cycles for which
it has waited Eligible (R45). recs are the resumable instructions that a pre-emption stopped (R56), each with where it
stands; cont is where the path goes on while they are issued again (R58); kept is the completed mask of a gather that
trapped, with its resume point (R351); resolved is as in Spot. -/
structure Path where
  side : Side
  stack : List Side
  hdr : Word
  words : List Word
  idx : Nat
  inside : Bool
  flights : List Flight
  wait : Wait
  lowUntil : Option Nat
  starved : Option Nat
  gather : Mask
  age : Nat
  recs : List Spot
  cont : Option Spot
  kept : Option (Nat × Word × Mask)
  resolved : Option Views := none
  deriving DecidableEq, Repr

/-- The paths of a crew (R39). -/
inductive Paths where
  | one (p : Path)
  | two (taken notTaken : Option Path)
  deriving DecidableEq, Repr

/-- Side state of an accumulator name (R244). held is what the array keeps of the elements of a product that is stopped, so that
the checks and the rerun are those of the whole instruction (R265, R266), and its NaNs those of R94. -/
structure AccSide where
  poison : Bool
  resume : Word
  rword : Word
  held : List ArrayCell := []
  deriving DecidableEq, Repr

/-- Why a crew is being saved or is saved (R20, R32, R55). -/
inductive SaveWhy where
  | waitsp
  | preempt
  | suspend
  deriving DecidableEq, Repr

/-- Where a crew is in its life (R13, R30, R57, R386). -/
inductive CrewState where
  | resident
  | saving (why : SaveWhy)
  | saved (why : SaveWhy)
  | ending
  deriving DecidableEq, Repr

/-- A sealed batch that is outstanding (R212): its serial identity and its number. -/
structure Batch where
  serial : Nat
  num : Nat
  deriving DecidableEq, Repr

/-- The system registers each crew holds besides its views (R64, R65, R350, R352). -/
structure SysRegs where
  fmtc : Word
  fpxf : Word
  cbt : List Word
  tsig : Word
  trapc : Word
  trapv : Word
  trappc : Word
  deriving DecidableEq, Repr

/-- The copy batches of a crew (R212, R358). -/
structure Batches where
  openSerial : Nat
  sealedB : List Batch
  last : Option Nat
  recs : List (Nat × FaultRec)
  deriving DecidableEq, Repr

/-- A crew (R12). area is the part of its region's save area that its latest save used (R57). -/
structure Crew where
  id : Nat
  region : Nat
  core : Nat
  quad : Nat
  slot : Nat
  unit : Nat
  state : CrewState
  since : Nat
  started : Nat
  parent : Option Nat
  live : Mask
  paths : Paths
  s : List Word
  k : List Mask
  urs : Memory
  win : Nat
  views : Views
  sys : SysRegs
  tags : List (BitVec 32)
  acc : List AccSide
  children : Nat
  reserve : Nat
  handler : Option PathSel
  lastRec : Option FaultRec
  batches : Batches
  arrivals : List (Nat × Nat)
  stepped : Option Nat
  area : Nat := 0
  deriving DecidableEq, Repr

/-! ### Cores, clusters, dies -/

/-- A named barrier (R49, R51, R154, R155, R385). -/
structure Barrier where
  region : Nat
  expect : Nat
  timeout : Word
  next : Option (Nat × Word)
  gen : Nat
  count : Nat
  arrived : List Nat
  first : Option Nat
  expired : Bool
  exited : BitVec 32
  pending : Option BarrierRec
  deriving DecidableEq, Repr

/-- A slot of the weight buffer (R251). -/
structure WSlot where
  owner : Option Nat
  bytes : Memory
  deriving DecidableEq, Repr

/-- A cached translation (R363): the 4 KiB page number, the leaf entry as walked, and the physical page. -/
structure TlbEntry where
  vpn : Nat
  entry : Nat
  page : Nat
  deriving DecidableEq, Repr

/-- A core (R9, R49, R199, R251, R325). fetched is how many bytes of G had been replaced when it last refreshed (R100); turn
is the place in the order in which its quadrants draw (R326). -/
structure Core where
  img : Memory
  dirty : List Nat
  fetched : Nat
  turn : Nat
  tlb : List TlbEntry
  barriers : List (Nat × Barrier)
  slots : List (Nat × WSlot)
  bal : Nat
  hold : Option PathRef
  heldTicks : Nat
  ran : List Nat
  deriving DecidableEq, Repr

/-- Mode of a cluster SRAM bank (R189). -/
inductive BankMode where
  | cache
  | scratch
  | fifo
  deriving DecidableEq, Repr

/-- A bank of a cluster's SRAM (R189, R191, R194). -/
structure Bank where
  mode : BankMode
  holder : Option Nat
  bytes : Memory
  queue : List Word
  deriving DecidableEq, Repr

/-- A lane-task record (R33) with its region and the cycle at which it entered the FIFO. -/
structure LaneTask where
  region : Nat
  entry : BitVec 32
  a1 : BitVec 32
  a2 : BitVec 32
  a3 : BitVec 32
  cycle : Nat
  cluster : Nat
  deriving DecidableEq, Repr

/-- A crew cast and not yet placed (R36, R38). Its records keep their FIFO entries until it is placed. -/
structure Cast where
  region : Nat
  entry : BitVec 32
  tasks : List LaneTask
  since : Nat
  deriving DecidableEq, Repr

/-- A cluster (R9, R33, R189, R363). -/
structure Cluster where
  banks : List Bank
  fifo : List LaneTask
  casts : List Cast
  tlb : List TlbEntry
  deriving DecidableEq, Repr

/-- A request of SPAWN or SPAWNR (R28) or a root region's seed (R24): die holds it; for SPAWNR, region is the child and
seed is set. -/
structure Request where
  die : Nat
  region : Nat
  entry : Word
  arg : Word
  seed : Bool
  spawner : Option Nat
  since : Nat
  deriving DecidableEq, Repr

/-- A ballast prefetch list (R345). -/
structure BallastList where
  region : Nat
  base : Word
  n : Nat
  cursor : Nat
  deriving DecidableEq, Repr

/-- A die (R9, R28, R325, R340, R345, R347). -/
structure Die where
  spawnQ : List Request
  bal : Nat
  limited : Bool
  tripNow : Bool
  trip : Bool
  hotNow : Bool
  hdrm : Bool
  blists : List BallastList
  deriving DecidableEq, Repr

/-! ### Regions -/

/-- STATE of a region (R20). -/
inductive RegionState where
  | running
  | suspended
  | terminating
  | complete
  | terminated
  deriving DecidableEq, Repr

/-- The fields of an RCB that a template supplies (R17, R18). -/
structure Rcb where
  entry : Word
  karg : Word
  views : Views
  lockq : Nat
  toksh : Nat
  banks : Nat
  win : Nat
  maxc : Nat
  clmask : BitVec 16
  diemask : BitVec 4
  spillb : Word
  spills : Nat
  fdom : Nat
  stepg : Nat
  ovr : BitVec 12
  fpol : Nat
  prio : Nat
  handler : Word
  ssrb : Word
  ssrn : Nat
  ltrb : Word
  ltrn : Nat
  taga : BitVec 32
  compa : Word
  wakea : Word
  wakev : Word
  deriving DecidableEq, Repr

/-- Which step of a region's completion is under way (R27). -/
inductive EndStep where
  | compa
  | wakea
  | last
  deriving DecidableEq, Repr

/-- A completion under way: its step, the fault that holds its store, and the tick since when. -/
structure Ending where
  step : EndStep
  fault : Option MemFault
  since : Nat
  refused : Bool
  deriving DecidableEq, Repr

/-- A region: its live RCB and what the front end keeps with it (R16 to R29). trapped says that a trap of it has reached
FPOL 0 or 1 since it last ran (R353); reel is the number of its packet in the reel (R382). -/
structure Region where
  id : Nat
  parent : Option Nat
  spawner : Option Nat
  rcb : Rcb
  state : RegionState
  err : Nat
  endCode : Nat
  cnt : Nat
  ssrt : Nat
  ssrh : Nat
  ltrt : Nat
  ltrh : Nat
  spawnRing : List Request
  laneRing : List LaneTask
  homeDie : Nat
  seed : Option Request
  queue : Option Nat
  phase : Nat
  tag : Word
  ending : Option Ending
  trapped : Bool
  reel : Option Nat
  deriving DecidableEq, Repr

/-! ### Copies and transfers -/

/-- How far a copy is (R211, R215). -/
inductive CopyState where
  | active
  | held (f : MemFault) (since : Nat)
  | sent
  | done
  | faulted (r : FaultRec)
  deriving DecidableEq, Repr

/-- A copy or transfer of a crew of this package. pos counts bytes done; entry the CPYQ entries done; wrote lists the
places of the bytes it has written (R214); mine lists those that the entry at hand has written and old what they held, so that
it reads its source as it was (R216). For a transfer entry
is 0 before its header or request is sent, 1 after, 2 once acknowledged. -/
structure Copy where
  id : Nat
  crew : Nat
  region : Nat
  core : Nat
  slot : Nat
  serial : Nat
  word : Word
  kind : CopyKind
  pos : Nat
  entry : Nat
  old : Memory
  mine : List Nat
  wrote : List Nat
  seq : Nat
  since : Nat
  state : CopyState
  deriving DecidableEq, Repr

/-- A transfer into this package (R309 to R314), a get of this package, or an atomic of another that was performed here
(R315, whose old value flits keeps): pages of a lossy one as translated, pieces or blocks done, flits of blocks not written,
and how it stands: finished, whether it failed, and whether it is an ordered one that ended before its turn (R310). -/
structure Incoming where
  hdr : XferHdr
  pages : List (Nat × Nat)
  got : List Nat
  flits : List (Nat × Nat × List Byte)
  accepted : Bool
  hold : Option (MemFault × Nat)
  finished : Bool
  failed : Bool
  passed : Bool := false
  since : Nat
  deriving DecidableEq, Repr

/-! ### Launch, system, power, fabric, boot, debug -/

/-- A launch queue (R370). phaseDone says that the boundary before the packet at RD has been made (R374). -/
structure Queue where
  rbase : Word
  en : Bool
  log2 : Nat
  rd : Word
  wr : Word
  err : Nat
  werr : Bool
  halt : Bool
  phase : Nat
  phaseDone : Bool
  deriving DecidableEq, Repr

/-- The host event queue (R368) and the MSI-X messages raised. -/
structure EventQ where
  base : Word
  en : Bool
  log2 : Nat
  tail : Word
  head : Word
  ovf : BitVec 32
  msix : Nat
  deriving DecidableEq, Repr

/-- Run mode of the package (R379). -/
inductive Mode where
  | full
  | minimal
  | recovery
  deriving DecidableEq, Repr

/-- A record of a marker area (R377): its 256 bytes. -/
abbrev Marker := List Byte

/-- The boot flash (R377), two slots and two marker areas with their records in order, and BOOTFAIL (R379), which outlast a
reset. -/
structure Flash where
  slotA : List Byte
  slotB : List Byte
  areaA : List Marker
  areaB : List Marker
  bootfail : Nat
  deriving DecidableEq, Repr

/-- BOOTSTAT (R379). -/
structure BootStat where
  recno : BitVec 32
  fails : Nat
  slot : Nat
  reason : Nat
  hash : BitVec 512
  number : Word
  deriving DecidableEq, Repr

/-- A packet recorded in the reel (R382): queue, SLATE, the address and the units of the packet. -/
structure ReelPacket where
  queue : Nat
  slate : Word
  base : Word
  units : List (List Byte)
  tag : Word
  sum : Option Word
  deriving DecidableEq, Repr

/-- Debug unit, reel and take (R381, R382, R367). guarded lists the table entries in which W is cleared and REPL set, with
what they held; restore the pages of the snapshot that a take has still to put back, since the host owns them (R217). -/
structure Debug where
  hen : Bool
  stop : Bool
  reel : Bool
  take : Bool
  dbgstop : Word
  stopped : Bool
  reelBase : Word
  reelSize : Word
  pkts : Nat
  active : Bool
  full : Bool
  packets : List ReelPacket
  pages : List (Nat × List Host.Cell)
  guarded : List (Nat × Nat)
  wrote : List Nat
  used : Nat
  takePos : Option Nat
  restore : List Nat := []
  deriving DecidableEq, Repr

/-- GCFG (R330). -/
structure GCfg where
  cap : Nat
  slew : Nat
  ilim : Nat
  deriving DecidableEq, Repr

/-- GFUSE (R330, R367), which no write changes. -/
structure GFuse where
  fcap : Nat
  fslew : Nat
  filim : Nat
  deriving DecidableEq, Repr

/-- GGRP (R330). -/
structure GGrp where
  group : BitVec 16
  budget : Nat
  bridge : Bool
  fabno : BitVec 22
  deriving DecidableEq, Repr

/-- A cue kept in the cue table (R336, R337): at is the first interval of its span once admitted. -/
structure CueEntry where
  msg : CueMsg
  at_ : Option Nat
  deriving DecidableEq, Repr

/-- Tokens, the Gaffer and cues (R325 to R348). budgetNow is the BUDGET in effect (R337), interval the interval whose rate
holds (R332). -/
structure Power where
  bal : Nat
  fuse : GFuse
  interval : Nat
  gcfg : GCfg
  ggrp : GGrp
  budgetNow : Nat
  rate : Nat
  uncore : Nat
  uncoreMw : Nat
  drawn : Nat
  ballast : Nat
  lastBallast : Nat
  lastShort : Nat
  cues : List CueEntry
  deriving DecidableEq, Repr

/-- A port and its link (R294, R299 to R303): keys are those of its two directions, offer what this end has sent in the exchange
under way or last made, lastIn and lastAck the ticks at which a flit was last delivered to this end and to the other, lastOut the
one at which one was last sent. -/
structure Port where
  fails : Nat
  auto : Bool
  down : Bool
  up : Bool
  keys : Option (BitVec 256 × BitVec 256)
  offer : Option KeyOffer := none
  epoch : Nat
  ctr : Nat
  lastIn : Nat
  lastAck : Nat
  lastOut : Nat
  bringing : Bool
  retryAt : Nat
  attempts : Nat
  deriving DecidableEq, Repr

/-- What has become of a flit given to a link (R301): it is on its way, the other end has taken it, or it has discarded it. -/
inductive FlitEnd where
  | flying
  | delivered
  | discarded
  deriving DecidableEq, Repr

/-- A flit given to a link (R294, R300): the port, the nonce's link id and counter, the packet it carries and which 64 bytes
of it, and what has become of it. -/
structure SentFlit where
  port : Nat
  linkId : BitVec 32
  ctr : Nat
  p : Packet
  part : Nat
  state : FlitEnd
  deriving DecidableEq, Repr

/-- An armed counter (R316), by its address as the core reaches it. -/
structure Armed where
  addr : Word
  core : Nat
  group : List Byte
  region : Nat
  deriving DecidableEq, Repr

/-- Work of the fabric engine or the fetcher that waits for tokens (R328): the die that pays, flits left to pay for, and a
message to send to a package, or one that has arrived when there is none. -/
structure FabJob where
  id : Nat
  die : Nat
  left : Nat
  out : Option (BitVec 10)
  msg : Msg
  deriving DecidableEq, Repr

/-- Routers, links and transfers' sequence numbers (R293 to R316). A routing entry not listed is at its reset value. bridge
holds messages for the bridge ports; cancels the failed transfers of which their destinations have still to answer that they know
(R311). -/
structure Fabric where
  banks : List (Nat × BitVec 16)
  valid0 : Bool
  valid1 : Bool
  rerr : Bool
  inj : BitVec 1
  ports : List Port
  lnkto : Nat
  weights : Nat × Nat
  held : List Packet
  bridge : List (Nat × Msg)
  sent : List SentFlit
  seqOut : List (BitVec 10 × Nat)
  seqIn : List (BitVec 10 × Nat)
  lost : List (BitVec 10)
  armed : List Armed
  incoming : List Incoming
  jobs : List FabJob
  cancels : List (BitVec 10 × XferHdr)
  deriving DecidableEq, Repr

/-- Translation and firmware state (R361, R363, R376). steady counts the ticks since firmware last held or skipped one
(R323). -/
structure Firm where
  steady : Nat
  ptroot : Word
  tlbinv : Option Word
  lantern : Word
  pausedUntil : Nat
  codeMap : List (Nat × Nat × Nat)
  deriving DecidableEq, Repr

/-- The whole package. cols lists the LLC sectors, by their number of 1 KiB in physical addresses, that column lines served last;
row lines served any other last (R195, R196). past holds the bytes of G that writes replaced, newest first, each with its number:
an instruction cache may still hold them (R100). focus, inbox, free, stamp and nextId are the model's own: whose word is handed off next,
the steps of outside agents that wait, and the counters of free choices, of ages and of identities. -/
structure State where
  pkgId : BitVec 10
  mode : Mode
  slate : Word
  g : Memory
  past : List (Nat × Nat × Byte)
  writes : Nat
  cols : List Nat
  cores : List Core
  clusters : List Cluster
  dies : List Die
  regions : List Region
  crews : List Crew
  copies : List Copy
  stepGens : List (Nat × Nat)
  pins : List (Nat × Nat)
  queues : List Queue
  events : EventQ
  power : Power
  fab : Fabric
  firm : Firm
  flash : Flash
  boot : BootStat
  dbg : Debug
  hist : List (List Nat)
  focus : Option PathRef
  inbox : List Instr
  free : Nat
  stamp : Nat
  nextId : Nat
  deriving DecidableEq, Repr

/-! ### Reset -/

/-- A core at power-on reset: dirty set empty (R199), no barrier bound, slots zero and without owner (R251), bucket 0
(R339). DESIGN CHOICE (log 2): its images list nothing. -/
def Core.reset : Core :=
  { img := [], dirty := [], fetched := 0, turn := 0, tlb := [], barriers := [], slots := [], bal := 0, hold := none,
    heldTicks := 0, ran := [] }

/-- A bank at power-on reset: cache mode (R189). -/
def Bank.reset : Bank := { mode := .cache, holder := none, bytes := [], queue := [] }

/-- A cluster at power-on reset (R189). -/
def Cluster.reset : Cluster := { banks := List.replicate 16 Bank.reset, fifo := [], casts := [], tlb := [] }

/-- A die at power-on reset (R339, R340). -/
def Die.reset : Die :=
  { spawnQ := [], bal := 0, limited := false, tripNow := false, trip := false, hotNow := false, hdrm := false,
    blists := [] }

/-- A launch queue at power-on reset (R370). -/
def Queue.reset : Queue :=
  { rbase := 0, en := false, log2 := 6, rd := 0, wr := 0, err := 0, werr := false, halt := false, phase := 0,
    phaseDone := false }

/-- A port at power-on reset (R303): AUTO 1, neither up nor down, no keys (R299). -/
def Port.reset : Port :=
  { fails := 0, auto := true, down := false, up := false, keys := none, epoch := 0, ctr := 0, lastIn := 0,
    lastAck := 0, lastOut := 0, bringing := false, retryAt := 0, attempts := 0 }

/-- Power at reset: buckets and rate 0 (R332, R339); GFUSE, CAP, SLEW and ILIM as R330 and R367 give them. DESIGN CHOICE (log
124): the shortfall and the ballast draw that TKRD item 6 reads before any interval has ended (R348) are 0. -/
def Power.reset : Power :=
  { bal := 0, fuse := { fcap := 4500, fslew := 512, filim := 2250 }, interval := 0, gcfg := { cap := 4500, slew := 128, ilim := 2250 },
    ggrp := { group := 0, budget := 0, bridge := false, fabno := 0 }, budgetNow := 0, rate := 0, uncore := 0,
    uncoreMw := 0, drawn := 0, ballast := 0, lastBallast := 0, lastShort := 0, cues := [] }

/-- The fabric at reset: no bank valid, INJ 0 (R297), every entry unreachable (R296), LNKTO 100,000 (R302), class
weights 1 : 1 (R304). -/
def Fabric.reset : Fabric :=
  { banks := [], valid0 := false, valid1 := false, rerr := false, inj := 0, ports := List.replicate 64 Port.reset,
    lnkto := 100000, weights := (1, 1), held := [], bridge := [], sent := [], seqOut := [], seqIn := [], lost := [], armed := [],
    incoming := [], jobs := [], cancels := [] }

/-- The debug unit at reset (R367, R381). -/
def Debug.reset : Debug :=
  { hen := false, stop := false, reel := false, take := false, dbgstop := 0, stopped := false, reelBase := 0,
    reelSize := 0, pkts := 0, active := false, full := false, packets := [], pages := [], guarded := [], wrote := [], used := 0,
    takePos := none }

/-- The event queue at reset (R368). -/
def EventQ.reset : EventQ := { base := 0, en := false, log2 := 6, tail := 0, head := 0, ovf := 0, msix := 0 }

/-- DESIGN CHOICE (log 7): an empty flash and BOOTFAIL 0, which power-on reset does not set. -/
def Flash.reset : Flash := { slotA := [], slotB := [], areaA := [], areaB := [], bootfail := 0 }

/-- DESIGN CHOICE (log 7): BOOTSTAT's fields, for which R379 gives no reset value. -/
def BootStat.reset : BootStat := { recno := 0, fails := 0, slot := 0, reason := 0, hash := 0, number := 0 }

/-- DESIGN CHOICE (log 8): the firmware's registers, for which no reset value is given. -/
def Firm.reset : Firm := { steady := 0, ptroot := 0, tlbinv := none, lantern := 0, pausedUntil := 0, codeMap := [] }

/-- The package right after power-on reset, in full mode: no region, no crew, memory listing nothing. DESIGN CHOICE (log 114):
every sector of the LLC is as after row lines. -/
def State.reset : State :=
  { pkgId := 0, mode := .full, slate := 0, g := [], past := [], writes := 0, cols := [], cores := List.replicate 256 Core.reset,
    clusters := List.replicate 64 Cluster.reset, dies := List.replicate 4 Die.reset, regions := [], crews := [],
    copies := [], stepGens := [], pins := [], queues := List.replicate 64 Queue.reset, events := EventQ.reset,
    power := Power.reset, fab := Fabric.reset, firm := Firm.reset, flash := Flash.reset, boot := BootStat.reset,
    dbg := Debug.reset, hist := List.replicate 1024 (List.replicate 23 0), focus := none, inbox := [], free := 0, stamp := 0, nextId := 0 }

end Sys2Proof.Machine
end

