-- ==== Sys2Proof/Machine/Bits.lean ====
section
/-! DEFINITION. Bit fields, sign extension, byte order (R2, R3, R96), lists of lanes, and memory as a canonical list of
bytes. -/

namespace Sys2Proof.Machine

/-- bits(x, hi, lo) as a number (R96). -/
def bits (x hi lo : Nat) : Nat := (x >>> lo) % 2 ^ (hi + 1 - lo)

/-- Bit i of x. -/
def bit (x i : Nat) : Bool := x.testBit i

/-- sext(x, n) as an integer (R96). -/
def sextInt (n x : Nat) : Int :=
  if n = 0 then 0
  else if x % 2 ^ n < 2 ^ (n - 1) then Int.ofNat (x % 2 ^ n) else Int.ofNat (x % 2 ^ n) - Int.ofNat (2 ^ n)

/-- wrap(x, n) as an n-bit pattern (R96). -/
def wrapNat (n : Nat) (x : Int) : Nat := (x % (2 ^ n : Nat)).toNat

/-- A word from an integer, modulo 2^64. -/
def wordOf (x : Int) : Word := BitVec.ofInt 64 x

/-- sat(x, lo, hi) (R96). -/
def satInt (x lo hi : Int) : Int := if x < lo then lo else if x > hi then hi else x

/-- One bit as a truth value. -/
def isOne (b : BitVec 1) : Bool := b == 1#1

/-- popc(x, n) (R96): the set bits among the low n bits. -/
def popcount (n x : Nat) : Nat := ((List.range n).filter (fun i => x.testBit i)).length

/-- clz(x, n) (R96) by the position of the highest set bit. -/
def leadingZeros (n x : Nat) : Nat := if x % 2 ^ n = 0 then n else n - 1 - Nat.log2 (x % 2 ^ n)

/-- The lanes of a crew in ascending order (R11). -/
def lanes : List Nat := List.range Config.creww

/-- The set bits of a mask, ascending. -/
def maskLanes (m : Mask) : List Nat := lanes.filter (fun i => m.getLsbD i)

/-- A mask with exactly the bits for which f holds. -/
def maskOf (f : Nat → Bool) : Mask :=
  BitVec.ofNat 64 (lanes.foldl (fun acc i => if f i then acc + 2 ^ i else acc) 0)

/-- The low n bytes of x, little-endian (R3). -/
def toBytes : Nat → Nat → List Byte
  | 0, _ => []
  | n + 1, x => BitVec.ofNat 8 x :: toBytes n (x / 256)

/-- A little-endian byte string as a number (R3). -/
def ofBytes : List Byte → Nat
  | [] => 0
  | b :: r => b.toNat + 256 * ofBytes r

/-- Replace the element at i of a list, or leave the list when there is none. -/
def setAt {α : Type} : List α → Nat → α → List α
  | [], _, _ => []
  | _ :: r, 0, y => y :: r
  | x :: r, i + 1, y => x :: setAt r i y

/-- The value under key k of a list of pairs. -/
def look {α : Type} (k : Nat) : List (Nat × α) → Option α
  | [] => none
  | (i, x) :: r => if i = k then some x else look k r

/-- Put a value under key k of a list of pairs, once. -/
def put {α : Type} (k : Nat) (x : α) : List (Nat × α) → List (Nat × α)
  | [] => [(k, x)]
  | (i, y) :: r => if i = k then (k, x) :: r else (i, y) :: put k x r

/-- Insert a number into a strictly rising list. -/
def insertNat (a : Nat) : List Nat → List Nat
  | [] => [a]
  | b :: r => if a < b then a :: b :: r else if a = b then b :: r else b :: insertNat a r

/-! ### Memory -/

/-- The byte at an address; what an unlisted byte reads as is zero. DESIGN CHOICE (log 1). -/
def Memory.read : Memory → Nat → Byte
  | [], _ => 0
  | (a, b) :: r, k => if a = k then b else if k < a then 0 else Memory.read r k

/-- Store one byte, keeping the list canonical: a zero byte is not listed. -/
def Memory.write : Memory → Nat → Byte → Memory
  | [], k, x => if x = 0 then [] else [(k, x)]
  | (a, b) :: r, k, x =>
    if k < a then (if x = 0 then (a, b) :: r else (k, x) :: (a, b) :: r)
    else if k = a then (if x = 0 then r else (k, x) :: r)
    else (a, b) :: Memory.write r k x

/-- The canonical form: addresses strictly rise and no entry is zero. -/
def Memory.wf : Memory → Bool
  | [] => true
  | [(_, b)] => b != 0
  | (a, b) :: (a', b') :: r => b != 0 && decide (a < a') && Memory.wf ((a', b') :: r)

/-- Store bytes at consecutive addresses. -/
def Memory.writeBytes (m : Memory) (k : Nat) : List Byte → Memory
  | [] => m
  | x :: r => Memory.writeBytes (Memory.write m k x) (k + 1) r

/-- n bytes at consecutive addresses. -/
def Memory.readBytes (m : Memory) (k : Nat) : Nat → List Byte
  | 0 => []
  | n + 1 => Memory.read m k :: Memory.readBytes m (k + 1) n

/-- n bytes at an address as a little-endian number. -/
def Memory.readNat (m : Memory) (k n : Nat) : Nat := ofBytes (Memory.readBytes m k n)

/-- Store the low n bytes of x at an address, little-endian. -/
def Memory.writeNat (m : Memory) (k n x : Nat) : Memory := Memory.writeBytes m k (toBytes n x)

/-- Copy the bytes at the listed addresses from one memory to another (R199). -/
def Memory.copyFrom (dst src : Memory) : List Nat → Memory
  | [] => dst
  | a :: r => Memory.copyFrom (Memory.write dst a (Memory.read src a)) src r

/-- One step of the fold of R259. -/
def foldStep (h w : Nat) : Nat :=
  ((h * 32 % 2 ^ 64 + h / 2 ^ 59) ^^^ w) * 0x9E3779B97F4A7C15 % 2 ^ 64

/-- The fold of R259 over 64-bit words. -/
def foldWords (h : Nat) (ws : List Nat) : Nat := ws.foldl foldStep h

/-- The 64-bit words of n * 8 bytes of a memory, from an address on. -/
def Memory.words (m : Memory) (a n : Nat) : List Nat := (List.range n).map (fun j => Memory.readNat m (a + 8 * j) 8)

end Sys2Proof.Machine
end

