-- ==== Sys2Proof/Machine/Access.lean ====
section
/-! DEFINITION. Reading and writing the parts of the state: crews and paths, scalars and masks, views and the registers
mapped through them (R61 to R74), and the scoreboard (R72). -/

namespace Sys2Proof.Machine

/-! ### Crews and paths -/

/-- The crew of an identity. -/
def State.crew? (s : State) (id : Nat) : Option Crew := s.crews.find? (fun c => c.id == id)

/-- Change the crew of an identity. -/
def State.updCrew (s : State) (id : Nat) (f : Crew → Crew) : State :=
  { s with crews := s.crews.map (fun c => if c.id = id then f c else c) }

/-- The path of a crew that a selector names (R39). -/
def Crew.path? (c : Crew) (sel : PathSel) : Option Path :=
  match c.paths, sel with
  | .one p, .single => some p
  | .two a _, .taken => a
  | .two _ b, .notTaken => b
  | _, _ => none

/-- Change the path of a crew. -/
def Crew.updPath (c : Crew) (sel : PathSel) (f : Path → Path) : Crew :=
  match c.paths, sel with
  | .one p, .single => { c with paths := .one (f p) }
  | .two a b, .taken => { c with paths := .two (a.map f) b }
  | .two a b, .notTaken => { c with paths := .two a (b.map f) }
  | _, _ => c

/-- The paths of a crew with their selectors, the taken peer first (R60). -/
def Crew.allPaths (c : Crew) : List (PathSel × Path) :=
  match c.paths with
  | .one p => [(.single, p)]
  | .two a b => (a.toList.map (fun p => (.taken, p))) ++ (b.toList.map (fun p => (.notTaken, p)))

/-- Change every path of a crew. -/
def Crew.mapPaths (c : Crew) (f : Path → Path) : Crew :=
  match c.paths with
  | .one p => { c with paths := .one (f p) }
  | .two a b => { c with paths := .two (a.map f) (b.map f) }

/-- Change every path of a crew, by its selector. -/
def Crew.mapSel (c : Crew) (f : PathSel → Path → Path) : Crew :=
  match c.paths with
  | .one p => { c with paths := .one (f .single p) }
  | .two a b => { c with paths := .two (a.map (f .taken)) (b.map (f .notTaken)) }

/-- Is the crew chosen for a save (R55, R56)? -/
def Crew.saving (c : Crew) : Bool := match c.state with | .saving _ => true | _ => false

/-- Does a path run a product with a remote operand (R263)? -/
def Path.inSlices (p : Path) : Bool := match p.wait with | .slices _ => true | _ => false

/-- Is the crew single-path (R39)? -/
def Crew.isSingle (c : Crew) : Bool :=
  match c.paths with
  | .one _ => true
  | .two _ _ => false

/-- The other peer's selector. -/
def otherSel : PathSel → PathSel
  | .single => .single
  | .taken => .notTaken
  | .notTaken => .taken

/-- PATH of TRAPC (R350). -/
def selCode : PathSel → Nat
  | .single => 0
  | .taken => 1
  | .notTaken => 2

/-- The path a reference names. -/
def State.path? (s : State) (r : PathRef) : Option Path := (s.crew? r.crew).bind (fun c => c.path? r.sel)

/-- Change the path a reference names. -/
def State.updPath (s : State) (r : PathRef) (f : Path → Path) : State :=
  s.updCrew r.crew (fun c => c.updPath r.sel f)

/-- Every path of the package with its reference. -/
def State.allPaths (s : State) : List (PathRef × Path) :=
  s.crews.flatMap (fun c => c.allPaths.map (fun q => ({ crew := c.id, sel := q.1 }, q.2)))

/-! ### Cores, clusters, dies, regions -/

/-- An empty core, for an index outside the package. -/
def State.core (s : State) (i : Nat) : Core := s.cores.getD i Core.reset
/-- Change a core. -/
def State.updCore (s : State) (i : Nat) (f : Core → Core) : State := { s with cores := setAt s.cores i (f (s.core i)) }
/-- The cluster of an index. -/
def State.cluster (s : State) (i : Nat) : Cluster := s.clusters.getD i Cluster.reset
/-- Change a cluster. -/
def State.updCluster (s : State) (i : Nat) (f : Cluster → Cluster) : State :=
  { s with clusters := setAt s.clusters i (f (s.cluster i)) }
/-- The die of an index. -/
def State.die (s : State) (i : Nat) : Die := s.dies.getD i Die.reset
/-- Change a die. -/
def State.updDie (s : State) (i : Nat) (f : Die → Die) : State := { s with dies := setAt s.dies i (f (s.die i)) }
/-- The cluster and the die of a core (R8). -/
def clusterOf (core : Nat) : Nat := core / 4
def dieOf (core : Nat) : Nat := core / 64
/-- The region of an identity. -/
def State.region? (s : State) (id : Nat) : Option Region := s.regions.find? (fun g => g.id == id)
/-- Change the region of an identity. -/
def State.updRegion (s : State) (id : Nat) (f : Region → Region) : State :=
  { s with regions := s.regions.map (fun g => if g.id = id then f g else g) }
/-- A launch queue. -/
def State.queue (s : State) (q : Nat) : Queue := s.queues.getD q Queue.reset
/-- Change a launch queue. -/
def State.updQueue (s : State) (q : Nat) (f : Queue → Queue) : State :=
  { s with queues := setAt s.queues q (f (s.queue q)) }
/-- A port. -/
def State.port (s : State) (p : Nat) : Port := s.fab.ports.getD p Port.reset
/-- Change a port. -/
def State.updPort (s : State) (p : Nat) (f : Port → Port) : State :=
  { s with fab := { s.fab with ports := setAt s.fab.ports p (f (s.port p)) } }
/-- Change a copy. -/
def State.updCopy (s : State) (id : Nat) (f : Copy → Copy) : State :=
  { s with copies := s.copies.map (fun c => if c.id = id then f c else c) }
/-- The copy of an identity. -/
def State.copy? (s : State) (id : Nat) : Option Copy := s.copies.find? (fun c => c.id == id)
/-- Take a fresh identity. -/
def State.fresh (s : State) : Nat × State := (s.nextId, { s with nextId := s.nextId + 1 })
/-- Take a fresh stamp of order. -/
def State.stamped (s : State) : Nat × State := (s.stamp, { s with stamp := s.stamp + 1 })
/-- Let a step wait in the inbox. -/
def State.post (s : State) (i : Instr) : State := { s with inbox := s.inbox ++ [i] }
/-- SLATE as a number (R323). -/
def State.now (s : State) : Nat := s.slate.toNat
/-- Core cycles at the nominal clock of 1.6 GHz (R4). PRESUMED nominal (log 27). -/
def State.cycles (s : State) : Nat := s.now * 8 / 5

/-! ### Scalars and masks -/

/-- Read a scalar: s63 is zero (R61). -/
def Crew.rs (c : Crew) (n : Nat) : Word := if n = 63 then 0 else c.s.getD n 0
/-- Write a scalar: a write to s63 is discarded (R61). -/
def Crew.ws (c : Crew) (n : Nat) (v : Word) : Crew := if n = 63 then c else { c with s := setAt c.s n v }
/-- Read a mask: k0 is all ones (R62). -/
def Crew.rk (c : Crew) (n : Nat) : Mask := if n = 0 then BitVec.allOnes 64 else c.k.getD n 0
/-- Write a mask: a write to k0 is discarded (R62). -/
def Crew.wk (c : Crew) (n : Nat) (v : Mask) : Crew := if n = 0 then c else { c with k := setAt c.k n v }
/-- Write the bits of a mask that sel names, keeping the others. -/
def Crew.wkOn (c : Crew) (n : Nat) (sel v : Mask) : Crew := c.wk n ((c.rk n &&& ~~~sel) ||| (v &&& sel))
/-- Write a scalar of a crew. -/
def State.ws (s : State) (id n : Nat) (v : Word) : State := s.updCrew id (fun c => c.ws n v)

/-! ### Views (R68 to R70) -/

/-- BASE of a view (R68). -/
def viewBase (v : BitVec 32) : Nat := fld v 7 0
/-- COUNT of a view, at most the names of its kind (R68). -/
def viewCount (k : Kind) (v : BitVec 32) : Nat := min (fld v 24 16) k.names

/-- The view of a wide kind (R69). -/
def Crew.view (c : Crew) : Kind → BitVec 32
  | .vec => c.views.v
  | .pair => c.views.w
  | .tile => c.views.t
  | .acc => c.views.a
  | .dist => c.views.d
  | _ => 0

/-- Granules of one register of a kind on NQ-4 (R69). -/
def Kind.granules : Kind → Nat
  | .vec => 1
  | .pair => 2
  | .tile => 8
  | .acc => 16
  | .dist => 8
  | _ => 0

/-- Is the kind one that a view maps? -/
def Kind.wide : Kind → Bool
  | .vec | .pair | .tile | .acc | .dist => true
  | _ => false

/-- Divergence-stack entries of a crew, shared by its paths (R41). -/
def Crew.entries (c : Crew) : Nat := (c.allPaths.map (fun q => q.2.stack.length)).sum

/-- Does the crew hold spilled entries (R41)? -/
def Crew.spilled (c : Crew) : Bool := decide (16 < c.entries)

/-- The first granule of register n of a kind. -/
def Crew.firstGranule (c : Crew) (k : Kind) (n : Nat) : Nat := viewBase (c.view k) + n * k.granules

/-- granules(reg) (R69). -/
def Crew.granulesOf (c : Crew) (k : Kind) (n : Nat) : List Nat :=
  (List.range k.granules).map (fun j => c.firstGranule k n + j)

/-- Is the register mapped (R70)? The spill area is the top four granules of the window (R41). -/
def Crew.mapped (c : Crew) (k : Kind) (n : Nat) : Bool :=
  decide (n < viewCount k (c.view k)) && decide (c.firstGranule k n + k.granules ≤ c.win * 16) &&
  (!c.spilled || decide (c.firstGranule k n + k.granules + 4 ≤ c.win * 16))

/-- Does a view map a granule of the spill area (R41)? Every register below COUNT counts, one that straddles the end of the
window included, which R70 does not map. DESIGN CHOICE (log 85). -/
def Crew.mapsSpill (c : Crew) : Bool :=
  ([.vec, .pair, .tile, .acc, .dist] : List Kind).any (fun k =>
    (List.range (viewCount k (c.view k))).any (fun n =>
      decide (c.win * 16 < c.firstGranule k n + k.granules + 4) &&
      decide (c.firstGranule k n < c.win * 16)))

/-- The window byte at which register n of a kind begins (R69). -/
def Crew.offset (c : Crew) (k : Kind) (n : Nat) : Nat := c.firstGranule k n * 256

/-- Bytes of one lane of a kind (R71). -/
def Kind.laneBytes : Kind → Nat
  | .vec => 4
  | .pair => 8
  | .tile => 32
  | .acc => 64
  | .dist => 32
  | _ => 0

/-- n bytes of a register from byte j of it. -/
def Crew.rdBytes (c : Crew) (k : Kind) (num j n : Nat) : List Byte := Memory.readBytes c.urs (c.offset k num + j) n
/-- n bytes of a register from byte j of it, as a number. -/
def Crew.rdNat (c : Crew) (k : Kind) (num j n : Nat) : Nat := Memory.readNat c.urs (c.offset k num + j) n
/-- Write bytes into a register from byte j of it. -/
def Crew.wrBytes (c : Crew) (k : Kind) (num j : Nat) (b : List Byte) : Crew :=
  { c with urs := Memory.writeBytes c.urs (c.offset k num + j) b }
/-- Write the low n bytes of x into a register from byte j of it. -/
def Crew.wrNat (c : Crew) (k : Kind) (num j n x : Nat) : Crew := c.wrBytes k num j (toBytes n x)
/-- Element j of w bytes in lane i (R71). -/
def Crew.elem (c : Crew) (k : Kind) (num i w j : Nat) : Nat := c.rdNat k num (i * k.laneBytes + j * w) w
/-- Write element j of w bytes in lane i. -/
def Crew.wrElem (c : Crew) (k : Kind) (num i w j x : Nat) : Crew := c.wrNat k num (i * k.laneBytes + j * w) w x

/-! ### System registers held by the crew -/

/-- CBT as 16 BF16 patterns (R85). -/
def Crew.codebook (c : Crew) : List Nat :=
  c.sys.cbt.flatMap (fun w => (List.range 4).map (fun j => bits w.toNat (16 * j + 15) (16 * j)))

/-- OR flags into FPXF (R66, R164). A flag of one peer's word is seen by the other peer at once; see Env.settled for an SWR
of FPXF that is in flight (log 86). -/
def Crew.raise (c : Crew) (f : BitVec 5) : Crew :=
  { c with sys := { c.sys with fpxf := c.sys.fpxf ||| (f.setWidth 64) } }

/-- Tag of a distribution register (R73). -/
def Crew.tag (c : Crew) (n : Nat) : BitVec 32 := c.tags.getD n 0
/-- Write a tag. -/
def Crew.wtag (c : Crew) (n : Nat) (v : BitVec 32) : Crew := { c with tags := setAt c.tags n v }
/-- Side state of an accumulator (R244). -/
def Crew.side (c : Crew) (n : Nat) : AccSide := c.acc.getD n { poison := false, resume := 0, rword := 0 }
/-- Write the side state of an accumulator. -/
def Crew.wside (c : Crew) (n : Nat) (v : AccSide) : Crew := { c with acc := setAt c.acc n v }

/-! ### Scoreboard (R72) -/

/-- The scoreboard units of a use. A distribution register counts its tag (R271), an accumulator's granules stand for
its side state. -/
def Crew.units (c : Crew) (u : Use) : List SbUnit :=
  match u.kind with
  | .scalar => [.scalar u.num]
  | .mask => [.mask u.num]
  | .sysreg => [.sysreg u.num]
  | .wslot => [.wslot u.num]
  | .dist => .tag u.num :: (c.granulesOf .dist u.num).map .granule
  | k => (c.granulesOf k u.num).map .granule

/-- Units a word reads and units it writes. -/
def Crew.readUnits (c : Crew) (us : List Use) : List SbUnit := (us.filter (fun u => !u.wr)).flatMap c.units
def Crew.writeUnits (c : Crew) (us : List Use) : List SbUnit := (us.filter (fun u => u.wr)).flatMap c.units

/-- Does an instruction in flight hold back one that reads and writes these units (R72)? -/
def Flight.holds (f : Flight) (rd wr : List SbUnit) : Bool :=
  f.writes.any (fun u => rd.contains u || wr.contains u) || f.reads.any (fun u => wr.contains u)

/-- Must the word wait for an earlier instruction of its path (R72)? -/
def Path.blocked (p : Path) (rd wr : List SbUnit) : Bool := p.flights.any (fun f => f.holds rd wr)

/-- System register number of a value held by the crew itself, as stored. -/
def Crew.sysVal (c : Crew) (n : Nat) : Nat :=
  if n = 0x10 then c.views.v.toNat else if n = 0x11 then c.views.w.toNat else if n = 0x12 then c.views.t.toNat
  else if n = 0x13 then c.views.a.toNat else if n = 0x14 then c.views.d.toNat
  else if n = 0x20 then c.sys.fmtc.toNat else if n = 0x21 then c.sys.fpxf.toNat
  else if n = 0x30 then c.sys.tsig.toNat else if n = 0x202 then c.sys.trappc.toNat
  else if 0x28 ≤ n ∧ n ≤ 0x2B then (c.sys.cbt.getD (n - 0x28) 0).toNat else 0

/-- What TRAPPC keeps of a value: its reserved bits read zero (R5, R352). -/
def trappcMask : Word := 0xF1FF_FFFF_FFFF_FFF8
/-- What a view register keeps of a value (R5, R68). -/
def viewKeep (v : Nat) : BitVec 32 := BitVec.ofNat 32 v &&& 0x01FF00FF#32

/-- SWR to a register of the crew: reserved bits are not kept (R5, R66, R68, R90, R352). -/
def Crew.setSys (c : Crew) (n v : Nat) : Crew :=
  if n = 0x10 then { c with views := { c.views with v := viewKeep v } }
  else if n = 0x11 then { c with views := { c.views with w := viewKeep v } }
  else if n = 0x12 then { c with views := { c.views with t := viewKeep v } }
  else if n = 0x13 then { c with views := { c.views with a := viewKeep v } }
  else if n = 0x14 then { c with views := { c.views with d := viewKeep v } }
  else if n = 0x20 then { c with sys := { c.sys with fmtc := BitVec.ofNat 64 v &&& 7 } }
  else if n = 0x21 then { c with sys := { c.sys with fpxf := BitVec.ofNat 64 v &&& 31 } }
  else if n = 0x30 then { c with sys := { c.sys with tsig := BitVec.ofNat 64 v } }
  else if n = 0x202 then { c with sys := { c.sys with trappc := BitVec.ofNat 64 v &&& trappcMask } }
  else if 0x28 ≤ n ∧ n ≤ 0x2B then
    { c with sys := { c.sys with cbt := setAt c.sys.cbt (n - 0x28) (BitVec.ofNat 64 v) } }
  else c

/-- The value of a scoreboard unit as a number, for the other peer's reads (R63, R65, R165, R271). -/
def Crew.unitVal (c : Crew) : SbUnit → Nat
  | .granule g => Memory.readNat c.urs (g * 256) 256
  | .scalar n => (c.rs n).toNat
  | .mask n => (c.rk n).toNat
  | .tag n => (c.tag n).toNat
  | .sysreg n => c.sysVal n
  | .wslot _ => 0

/-- Put back the old value of a unit where pick says so: a register or tag whole, a granule piece by piece (R165). -/
def Crew.putOld (c : Crew) (piece : Nat) (pick : Nat → Bool) : SbUnit × Nat → Crew
  | (.granule g, x) =>
    { c with urs := (List.range (256 / piece)).foldl (fun m j =>
        if pick j then Memory.writeNat m (g * 256 + j * piece) piece (x / 256 ^ (j * piece)) else m) c.urs }
  | (.scalar n, x) => if pick 0 then c.ws n (BitVec.ofNat 64 x) else c
  | (.mask n, x) => if pick 0 then c.wk n (BitVec.ofNat 64 x) else c
  | (.tag n, x) => if pick 0 then c.wtag n (BitVec.ofNat 32 x) else c
  | (.sysreg n, x) => if pick 0 then c.setSys n x else c
  | (.wslot _, _) => c

/-- What the other peer's uncompleted instructions leave open (R63): their units with the values they replace. -/
def Crew.openOlds (c : Crew) (sel : PathSel) : List (SbUnit × Nat) :=
  match c.path? (otherSel sel) with
  | some q => if c.isSingle then [] else q.flights.flatMap (fun f => f.olds)
  | none => []

/-- Is a unit one of CBT0 to CBT3? -/
def SbUnit.isCbt : SbUnit → Bool
  | .sysreg n => decide (0x28 ≤ n) && decide (n ≤ 0x2B)
  | _ => false

/-- The crew as a path reads it: each unit that the other peer is writing reads old or new by a free choice (R63, R165,
R187), a granule in pieces of 8 bytes for words that name a pair register and of 4 bytes for others, and the codebook
whole (R178). -/
def Crew.seenBy (c : Crew) (free : Nat) (sel : PathSel) (us : List Use) : Crew :=
  let piece := if us.any (fun u => u.kind == .pair) then 8 else 4
  (c.openOlds sel).zipIdx.foldl
    (fun d q => d.putOld piece (fun j =>
      (Config.freeChoice free).testBit (if q.1.1.isCbt then 0 else 64 + q.2 * 64 + j)) q.1) c

/-- Drop the old values of the units a path writes from the other peer's record: its own write is later. A granule goes
whole, the other peer's lanes in it too, which this path then reads new. DESIGN CHOICE (log 102). -/
def Crew.dropOlds (c : Crew) (sel : PathSel) (wr : List SbUnit) : Crew :=
  if c.isSingle then c
  else c.updPath (otherSel sel) (fun q =>
    { q with flights := q.flights.map (fun f => { f with olds := f.olds.filter (fun u => !wr.contains u.1) }) })

/-- A path writes a scalar at the end of a wait of its word: nothing older is read there any more (R63). -/
def State.setOwn (s : State) (r : PathRef) (n : Nat) (v : Word) : State :=
  s.updCrew r.crew (fun c => (c.ws n v).dropOlds r.sel [.scalar n])

end Sys2Proof.Machine
end

