-- ==== Sys2Proof/Machine/Clause.lean ====
section
/-! DEFINITION. The clause: its header (R101), classes and ending words (R102, R103), the price table (R105, R329), and the
static checks of R106 in their order. -/

namespace Sys2Proof.Machine

/-! ### Header fields (R101) -/

def hdrTag (h : Word) : Nat := bits h.toNat 63 60
def hdrClass (h : Word) : Nat := bits h.toNat 59 56
/-- COUNT: words less one. -/
def hdrCount (h : Word) : Nat := bits h.toNat 55 52
def hdrPrice (h : Word) : Nat := bits h.toNat 51 34
def hdrWbar (h : Word) : Nat := bits h.toNat 33 27
def hdrWbatch (h : Word) : Nat := bits h.toNat 26 20
/-- Is word i a pair word? -/
def hdrPair (h : Word) (i : Nat) : Bool := bit h.toNat i && decide (i < 16)

/-- Checks 1 and 2 of R106: none, or the CAUSE of the illegal-clause trap (R349). -/
def headerFault (h : Word) : Option Nat :=
  if hdrTag h ≠ 14 then some 1
  else if hdrClass h = 6 ∨ 8 ≤ hdrClass h then some 2
  else if bits h.toNat 19 16 ≠ 0 then some 2
  else if 96 ≤ hdrWbar h ∧ hdrWbar h ≤ 126 then some 2
  else if bits h.toNat 15 0 / 2 ^ (hdrCount h + 1) ≠ 0 then some 2
  else if bits h.toNat 15 0 ≠ 0 ∧ hdrClass h ≠ 1 ∧ hdrClass h ≠ 7 then some 2
  else none

/-! ### Classes and ending words -/

/-- The clause-ending words (R103). -/
def endsClause : Instr → Bool
  | .bra _ | .brc _ | .brv _ | .join _ | .call _ | .ret _ | .jmpi _ | .loop _ | .exit _ | .pause _ | .pauseW _
  | .waitsp | .barw _ | .bars _ | .stepw | .trap _ | .syscNotify _ | .syscFrec _ | .syscBrec _ | .syscAttest _
  | .eret | .halt => true
  | _ => false

/-- The opcode of an instruction, as the encoder writes it; a pair word and an event have none. -/
def opcodeOf (i : Instr) : Option Nat :=
  match encode i with
  | some (false, w) => some (w.toNat / 2 ^ 54)
  | _ => none

/-- The range of opcodes a class admits (R102). -/
def classAdmits (cls : Nat) (i : Instr) (last : Bool) : Bool :=
  match i with
  | .nop => true
  | .pairWord _ => cls == 1 || cls == 7
  | _ =>
    match opcodeOf i with
    | none => false
    | some k =>
      if cls = 7 then true
      else if cls = 0 then decide (k ≤ 0x7F) || (decide (0x2C0 ≤ k) && decide (k ≤ 0x2DF))
      else
        (if cls = 1 then decide (0x80 ≤ k) && decide (k ≤ 0x17F)
         else if cls = 2 then decide (0x180 ≤ k) && decide (k ≤ 0x1FF)
         else if cls = 3 then decide (0x200 ≤ k) && decide (k ≤ 0x23F)
         else if cls = 4 then decide (0x240 ≤ k) && decide (k ≤ 0x27F)
         else if cls = 5 then decide (0x280 ≤ k) && decide (k ≤ 0x2BF)
         else false) || (last && endsClause i)

/-! ### The price table (R329) -/

/-- Price of a vector integer instruction by type. -/
def priceInt (ty : BitVec 3) (narrow wide : Nat) : Nat := if 6 ≤ ty.toNat then wide else narrow
/-- Price of a vector floating-point instruction by type. -/
def priceFp (ty : BitVec 3) (f32 half f64 : Nat) : Nat := if ty = 0 then f32 else if ty = 1 then f64 else half
/-- A broadcast source costs 12 tokens more in a wide instruction (R75, R329). -/
def bcastPrice (o : FieldsR) : Nat := if o.bv = 1 then 12 else 0
/-- Price of an MMA by TYPE. -/
def priceMma (ty : BitVec 3) : Nat :=
  if ty = 0 then 44000 else if ty = 1 then 29500 else if ty = 2 then 31000 else if ty = 3 then 27000 else 33000

/-- Price of a compact half: its full-form instruction of the same type; CNOP costs nothing (R105). -/
def priceHalf (h : Half) : Nat :=
  let c := h.cop.toNat
  let half : Bool := h.ct == 2 || h.ct == 3
  if c = 0 then 0
  else if c = 3 ∨ c = 4 then 380
  else if c ≤ 0x0F then 262
  else if c = 0x10 ∨ c = 0x11 ∨ c = 0x14 ∨ c = 0x15 then (if half then 220 else 340)
  else if c = 0x12 then (if half then 260 else 418)
  else if c = 0x13 then (if half then 300 else 522)
  else if c = 0x16 ∨ c = 0x17 then 200
  else if c ≤ 0x1E then 700
  else 280

/-- The price of a word in tokens (R329). -/
def price : Instr → Nat
  | .nop => 4
  | .bra _ | .brc _ | .brv _ | .join _ | .call _ | .ret _ | .jmpi _ | .loop _ | .exit _ | .pause _ | .pauseW _
  | .movi _ | .movh _ | .mov _ | .add _ | .sub _ | .and _ | .or _ | .xor _ | .not _ | .shl _ | .shr _ | .sar _
  | .rot _ | .min _ | .max _ | .cmp _ | .sel _ | .clz _ | .popc _ | .bfe _ | .bfi _ | .adda _ | .srd _ | .swr _ => 16
  | .mul _ | .mulh _ => 24
  | .div _ | .rem _ => 64
  | .spawn _ | .spawnr _ => 220
  | .enql o => 140 + bcastPrice o
  | .qflush => 40
  | .waitsp => 60
  | .bari _ | .bara _ | .barw _ | .bars _ | .stepw => 40
  | .vmul o | .vmulh o | .vmad o => priceInt o.ty 380 760 + bcastPrice o
  | .vadd o | .vsub o | .vand o | .vor o | .vxor o | .vnot o | .vshl o | .vshr o | .vsar o | .vmin o | .vmax o
  | .vabs o | .vclz o | .vpopc o | .vbfe o | .vbfi o | .vmov o | .vcmp o | .vsel o =>
    priceInt o.ty 262 524 + bcastPrice o
  | .vmovs o => priceInt o.ty 262 524
  | .vfadd o | .vfsub o | .vfmin o | .vfmax o | .vfcmp o | .vfrnd o => priceFp o.ty 340 220 700 + bcastPrice o
  | .vfmul o => priceFp o.ty 418 260 900 + bcastPrice o
  | .vfma o => priceFp o.ty 522 300 1150 + bcastPrice o
  | .vfabs o | .vfneg o | .vfcls o => 200 + bcastPrice o
  | .vfcvt o | .vpack o | .vunpk o | .vcbtEnc o | .vcbtDec o | .vcbtMov o | .vqnt o => 280 + bcastPrice o
  | .vrcp o | .vrsq o | .vsqrt o | .vexp2 o | .vlog2 o | .vsin o | .vcos o => 700 + bcastPrice o
  | .vshuf o | .vrot o | .vbfly o | .vbcst o | .vext o | .vins o | .vballot o | .vvote o => 300 + bcastPrice o
  | .vrdc o | .vscan o => 420 + bcastPrice o
  | .vqhist o => 900 + bcastPrice o
  | .kand o | .kor o | .kxor o | .knot o | .kmov o | .kmovS o | .exmrd o | .exmwr o => 40 + bcastPrice o
  | .pairWord o => priceHalf o.lo + priceHalf o.hi
  | .ld _ | .st _ => 60
  | .lda _ | .stl _ => 90
  | .at _ | .acas _ => 120
  | .vld o | .vst o =>
    if o.md = 0 then (if o.ty = 6 then 2200 else 1100) else (if o.ty = 6 then 2600 else 1300)
  | .vldb _ => 200
  | .vldg o | .vsts o => if o.ty = 6 then 4800 else 2400
  | .vat o => if atomKind o.ty = .pair then 6000 else 3000
  | .fence _ => 40
  | .phase => 400
  | .pref _ => 50
  | .lock _ | .unlk _ => 80
  | .bnkcfg _ => 500
  | .fput _ | .fget _ => 60
  | .waitc _ => 40
  | .cpy _ | .cpy2 _ | .cpyt _ | .cpyq _ => 300
  | .sealb _ => 16
  | .waitb _ | .waitbT _ => 40
  | .mma o | .mmat o => priceMma o.ty
  | .mmaw o => priceMma o.ty + 1500
  | .wbld o => 400 + 300 * (fld o.md 2 0 + 1)
  | .tld _ | .tst _ => 2600
  | .ald o | .ast o => if o.md = 0 then 5000 else 2600
  | .aclr _ => 600
  | .ascl _ => 1200
  | .acvt _ => 1800
  | .tsigTile _ | .tsigAcc _ => 900
  | .tschk _ => 60
  | .dadd o | .dsub o | .dmul o | .dmax o | .dmin o | .dmix o => 6000 + bcastPrice o
  | .dpt o | .dset o | .daff o | .dcond o => 500 + bcastPrice o
  | .dfn o => 1200 + bcastPrice o
  | .dmom o | .dqnt o | .dcdf o => 1400 + bcastPrice o
  | .dld _ | .dst _ => 2200
  | .dtagNew o | .dtagSet o | .dtagOr o | .dtgrd o => 40 + bcastPrice o
  | .rput _ | .rget _ | .rred _ => 300
  | .ratom _ => 150
  | .rmskRd _ | .rmskArm _ | .rmskDisarm _ => 60
  | .vrdcm o => 2600 + bcastPrice o
  | .tkrd _ | .tkrsv _ | .blst _ => 16
  | .cue _ => 200
  | .trap _ | .syscNotify _ | .syscFrec _ | .syscBrec _ | .syscAttest _ | .eret | .halt => 16
  | _ => 0

/-! ### The static checks (R106) -/

/-- A failing check: trap class, cause, the word's index, and TRAPV. -/
structure StaticFault where
  cls : Nat
  cause : Nat
  index : Nat
  val : Word
  deriving DecidableEq, Repr

/-- Checks 3 and 4 of one word (R106). -/
def wordFault (h : Word) (i : Nat) (w : Word) : Option StaticFault :=
  match decodeWord (hdrPair h i) w with
  | none => some { cls := 1, cause := 0, index := i, val := w }
  | some ins =>
    if !classAdmits (hdrClass h) ins (i == hdrCount h) then some { cls := 2, cause := 3, index := i, val := h }
    else if endsClause ins && i != hdrCount h then some { cls := 2, cause := 4, index := i, val := h }
    else none

/-- Checks 3 and 4 of every word, word 0 first, all checks of one word before the next (R106). -/
def wordsFault (h : Word) : Nat → List Word → Option StaticFault
  | _, [] => none
  | i, w :: r =>
    match wordFault h i w with
    | some f => some f
    | none => wordsFault h (i + 1) r

/-- The true price of a clause (R105). -/
def truePrice (h : Word) (ws : List Word) : Nat :=
  ((ws.zipIdx).map (fun q => match decodeWord (hdrPair h q.2) q.1 with | some i => price i | none => 0)).sum

/-- All static checks of a clause in the order of R106. -/
def staticFault (h : Word) (ws : List Word) : Option StaticFault :=
  match headerFault h with
  | some c => some { cls := 2, cause := c, index := 0, val := h }
  | none =>
    match wordsFault h 0 ws with
    | some f => some f
    | none =>
      if 4 * hdrPrice h < truePrice h ws then
        some { cls := 4, cause := 0, index := 0, val := BitVec.ofNat 64 (truePrice h ws) }
      else none

end Sys2Proof.Machine
end

