-- ==== Sys2Proof/Machine/Float.lean ====
section
/-! DEFINITION. The IEEE-style formats, exact values, the one rounding function and the flags it raises (R77 to R80). -/

namespace Sys2Proof.Machine

/-- A format of R77: exponent and fraction widths. -/
structure Fmt where
  eb : Nat
  fb : Nat
  deriving DecidableEq, Repr

/-- FP64, FP32, FP16, BF16 (R77). -/
def fp64 : Fmt := { eb := 11, fb := 52 }
def fp32 : Fmt := { eb := 8, fb := 23 }
def fp16 : Fmt := { eb := 5, fb := 10 }
def bf16 : Fmt := { eb := 8, fb := 7 }

/-- Width in bits. -/
def Fmt.width (f : Fmt) : Nat := 1 + f.eb + f.fb
/-- Exponent bias (R77). -/
def Fmt.bias (f : Fmt) : Nat := 2 ^ (f.eb - 1) - 1
/-- Pattern of an infinity. -/
def Fmt.infBits (f : Fmt) (neg : Bool) : Nat := (if neg then 2 ^ (f.eb + f.fb) else 0) + (2 ^ f.eb - 1) * 2 ^ f.fb
/-- Pattern of a zero. -/
def Fmt.zeroBits (f : Fmt) (neg : Bool) : Nat := if neg then 2 ^ (f.eb + f.fb) else 0
/-- Pattern of the largest finite value. -/
def Fmt.maxBits (f : Fmt) (neg : Bool) : Nat := f.infBits neg - 1
/-- canonical_nan(F) (R77, R96). -/
def Fmt.nanBits (f : Fmt) : Nat := (2 ^ f.eb - 1) * 2 ^ f.fb + 2 ^ (f.fb - 1)

/-- The flags of FPXF (R66): [4] NV, [3] DZ, [2] OF, [1] UF, [0] NX. -/
abbrev Flags := BitVec 5
def flagNV : Flags := 16#5
def flagDZ : Flags := 8#5
def flagOF : Flags := 4#5
def flagUF : Flags := 2#5
def flagNX : Flags := 1#5

/-- value(F, b) (R77, R96). -/
def Fmt.decode (f : Fmt) (b : Nat) : FVal :=
  let frac := b % 2 ^ f.fb
  let ex := (b >>> f.fb) % 2 ^ f.eb
  let neg := b.testBit (f.eb + f.fb)
  if ex = 2 ^ f.eb - 1 then
    if frac = 0 then .inf neg else .nan (!(frac.testBit (f.fb - 1)))
  else if ex = 0 then .fin neg frac (1 - f.bias - f.fb)
  else .fin neg (frac + 2 ^ f.fb) ((ex : Int) - f.bias - f.fb)

def FVal.isNan : FVal → Bool
  | .nan _ => true
  | _ => false
def FVal.isSig : FVal → Bool
  | .nan s => s
  | _ => false
def FVal.isInf : FVal → Bool
  | .inf _ => true
  | _ => false
def FVal.isZero : FVal → Bool
  | .fin _ m _ => m == 0
  | _ => false
def FVal.isFinite : FVal → Bool
  | .fin _ _ _ => true
  | _ => false
def FVal.isNeg : FVal → Bool
  | .nan _ => false
  | .inf n => n
  | .fin n _ _ => n

/-- 2^e of an integer exponent as a fraction (numerator, denominator). -/
def pow2 (e : Int) : Nat × Nat := if 0 ≤ e then (2 ^ e.toNat, 1) else (1, 2 ^ (-e).toNat)

/-- Floor of log2 of num/den, both positive. -/
def floorLog2 (num den : Nat) : Int :=
  let e : Int := (Nat.log2 num : Int) - (Nat.log2 den : Int)
  let p := pow2 e
  if num * p.2 < den * p.1 then e - 1 else e

/-- Does a remainder r of divisor d round the magnitude up (R78)? m is the mode code. -/
def roundsUp (m : Nat) (neg : Bool) (t r d : Nat) : Bool :=
  if m = 0 then decide (2 * r > d) || (decide (2 * r = d) && decide (t % 2 = 1))
  else if m = 1 then false
  else if m = 2 then !neg && decide (r ≠ 0)
  else neg && decide (r ≠ 0)

/-- round of a positive rational magnitude with a sign (R79): the pattern and the flags. -/
def Fmt.roundRat (f : Fmt) (m : Nat) (neg : Bool) (num den : Nat) : Nat × Flags :=
  let e := floorLog2 num den
  let emin : Int := 1 - f.bias
  let q : Int := (if e < emin then emin else e) - f.fb
  let p := pow2 q
  let n := num * p.2
  let d := den * p.1
  let t := n / d
  let r := n % d
  let t' := if roundsUp m neg t r d then t + 1 else t
  let tooBig : Bool := decide ((f.bias : Int) < q + f.fb) || (decide (q + f.fb = f.bias) && decide (2 ^ (f.fb + 1) ≤ t'))
  if tooBig then
    let toMax : Bool := if m = 0 then false else if m = 1 then true else if m = 2 then neg else !neg
    (if toMax then f.maxBits neg else f.infBits neg, flagOF ||| flagNX)
  else
    let nx : Flags := if r = 0 then 0 else flagNX
    let uf : Flags := if r ≠ 0 ∧ t' ≠ 0 ∧ t' < 2 ^ f.fb then flagUF else 0
    let body := if t' < 2 ^ f.fb then t' else (q + f.fb + f.bias).toNat * 2 ^ f.fb + (t' - 2 ^ f.fb)
    (f.zeroBits neg + body, nx ||| uf)

/-- round(x, F, m) of an exact value (R79). A NaN gives the canonical NaN; the caller raises NV. -/
def Fmt.round (f : Fmt) (m : Nat) : FVal → Nat × Flags
  | .nan _ => (f.nanBits, 0)
  | .inf neg => (f.infBits neg, 0)
  | .fin neg mm e =>
    if mm = 0 then (f.zeroBits neg, 0)
    else let p := pow2 e; f.roundRat m neg (mm * p.1) p.2

/-- The signed mantissas of two finite values at a common exponent. -/
def alignTo (n1 : Bool) (m1 : Nat) (e1 : Int) (n2 : Bool) (m2 : Nat) (e2 : Int) : Int × Int × Int :=
  let e := if e1 < e2 then e1 else e2
  let a : Int := (m1 : Int) * (2 ^ (e1 - e).toNat : Nat)
  let b : Int := (m2 : Int) * (2 ^ (e2 - e).toNat : Nat)
  (if n1 then -a else a, if n2 then -b else b, e)

/-- A finite value from a signed mantissa; zero takes the sign given. -/
def finOf (x : Int) (e : Int) (zeroNeg : Bool) : FVal :=
  if x = 0 then .fin zeroNeg 0 0 else .fin (decide (x < 0)) x.natAbs e

/-- Exact sum (R80). A zero sum of unlike operands is +0, or -0 under rounding toward minus infinity, as IEEE 754 has it
(R77). DEDUCED (log 22). The second part says whether the operation is invalid. -/
def FVal.add (m : Nat) : FVal → FVal → FVal × Bool
  | .nan s, y => (.nan false, s || y.isSig)
  | x, .nan s => (.nan false, s || x.isSig)
  | .inf a, .inf b => if a = b then (.inf a, false) else (.nan false, true)
  | .inf a, .fin _ _ _ => (.inf a, false)
  | .fin _ _ _, .inf b => (.inf b, false)
  | .fin n1 m1 e1, .fin n2 m2 e2 =>
    let (a, b, e) := alignTo n1 m1 e1 n2 m2 e2
    (finOf (a + b) e (if n1 = n2 then n1 else m == 3), false)

/-- Negation of an exact value. -/
def FVal.neg : FVal → FVal
  | .nan s => .nan s
  | .inf n => .inf (!n)
  | .fin n m e => .fin (!n) m e

/-- Magnitude of an exact value. -/
def FVal.abs : FVal → FVal
  | .nan s => .nan s
  | .inf _ => .inf false
  | .fin _ m e => .fin false m e

/-- Exact product (R80). -/
def FVal.mul : FVal → FVal → FVal × Bool
  | .nan s, y => (.nan false, s || y.isSig)
  | x, .nan s => (.nan false, s || x.isSig)
  | .inf a, .inf b => (.inf (a != b), false)
  | .inf a, .fin n m _ => if m = 0 then (.nan false, true) else (.inf (a != n), false)
  | .fin n m _, .inf b => if m = 0 then (.nan false, true) else (.inf (n != b), false)
  | .fin n1 m1 e1, .fin n2 m2 e2 => (.fin (n1 != n2) (m1 * m2) (e1 + e2), false)

/-- a × b + c exactly; invalid when either part is, also for 0 × ∞ plus a quiet NaN (R170). -/
def FVal.fma (m : Nat) (a b c : FVal) : FVal × Bool :=
  let p := FVal.mul a b
  let s := FVal.add m p.1 c
  (s.1, p.2 || s.2)

/-- Multiply by 2^j exactly. -/
def FVal.scale (j : Int) : FVal → FVal
  | .fin n m e => .fin n m (e + j)
  | x => x

/-- Comparison of two values that are not NaN: -1, 0 or 1, with -0 equal to +0 (R80). -/
def FVal.cmp : FVal → FVal → Int
  | .inf a, .inf b => if a = b then 0 else if a then -1 else 1
  | .inf a, _ => if a then -1 else 1
  | _, .inf b => if b then 1 else -1
  | .fin n1 m1 e1, .fin n2 m2 e2 =>
    let (a, b, _) := alignTo n1 m1 e1 n2 m2 e2
    if a < b then -1 else if a = b then 0 else 1
  | _, _ => 0

/-- expo(v) of a finite non-zero value (R88, R96). -/
def FVal.expo : FVal → Int
  | .fin _ m e => (Nat.log2 m : Int) + e
  | _ => 0

/-- NV when the flag is set. -/
def nvIf (b : Bool) : Flags := if b then flagNV else 0

/-- Round the result of an exact operation and add its invalid flag (R79, R80). -/
def Fmt.finish (f : Fmt) (m : Nat) (x : FVal × Bool) : Nat × Flags :=
  let r := f.round m x.1
  (r.1, r.2 ||| nvIf x.2)

/-- The quotient of two finite values, the divisor not zero, rounded once (R79). -/
def Fmt.divide (f : Fmt) (m : Nat) : FVal → FVal → Nat × Flags
  | .nan s, y => (f.nanBits, nvIf (s || y.isSig))
  | x, .nan s => (f.nanBits, nvIf (s || x.isSig))
  | .inf _, .inf _ => (f.nanBits, flagNV)
  | .inf a, .fin n _ _ => (f.infBits (a != n), 0)
  | .fin n _ _, .inf b => (f.zeroBits (n != b), 0)
  | .fin n1 m1 e1, .fin n2 m2 e2 =>
    if m2 = 0 then (if m1 = 0 then (f.nanBits, flagNV) else (f.infBits (n1 != n2), flagDZ))
    else if m1 = 0 then (f.zeroBits (n1 != n2), 0)
    else let p := pow2 (e1 - e2); f.roundRat m (n1 != n2) (m1 * p.1) (m2 * p.2)

/-- VFMIN and VFMAX (R80): the one that is not NaN; -0 below +0. pick says whether the smaller is wanted. -/
def Fmt.minmax (f : Fmt) (smaller : Bool) (a b : Nat) : Nat × Flags :=
  let x := f.decode a
  let y := f.decode b
  let nv := nvIf (x.isSig || y.isSig)
  if x.isNan then (if y.isNan then f.nanBits else b, nv)
  else if y.isNan then (a, nv)
  else
    let c := FVal.cmp x y
    let aLow : Bool := decide (c < 0) || (decide (c = 0) && x.isNeg)
    (if aLow = smaller then a else b, nv)

end Sys2Proof.Machine
end

