-- ==== Sys2Proof/Machine/Special.lean ====
section
/-! DEFINITION. The special functions of R173, correctly rounded. Roots are exact integer roots with the inexact part kept;
the transcendental functions are bounded below and above at 512 bits and rounded from the bounds. DEDUCED (log 23). -/

namespace Sys2Proof.Machine

/-- Newton steps for an integer square root, from above. -/
def isqrtSteps : Nat → Nat → Nat → Nat
  | 0, _, x => x
  | fuel + 1, n, x =>
    let y := (x + n / x) / 2
    if y < x then isqrtSteps fuel n y else x

/-- Floor of the square root. -/
def isqrt (n : Nat) : Nat := if n = 0 then 0 else isqrtSteps 64 n (2 ^ (Nat.log2 n / 2 + 1))

/-- The square root of num/den rounded once: the root is formed to at least 64 bits, and an inexact root is moved half
a unit up, which rounds as the root itself does. -/
def Fmt.roundSqrt (f : Fmt) (m : Nat) (num den : Nat) : Nat × Flags :=
  let k := 160 + Nat.log2 den
  let n := num * 4 ^ k
  let q := n / den
  let r := isqrt q
  if r * r = q ∧ n % den = 0 then f.roundRat m false r (2 ^ k) else f.roundRat m false (2 * r + 1) (2 ^ (k + 1))

/-- Working precision of the transcendental functions. -/
def specP : Nat := 512

/-- Round the value between lo and hi, in units of 2^-(specP + s). Both bounds round alike but for values closer to a
rounding boundary than the bounds are to each other. -/
def Fmt.roundBetween (f : Fmt) (m : Nat) (neg : Bool) (lo _hi : Nat) (s : Int) : Nat × Flags :=
  let p := pow2 s
  f.roundRat m neg (lo * p.1) (2 ^ specP * p.2)

/-- Multiply the fixed-point number acc by 2^(2^-i) for each set bit of the fraction; root holds 2^(2^-i). fr counts the
fraction's remaining bits, top bit first. -/
def exp2Bits : Nat → Nat → Nat → Nat → Nat
  | 0, _, _, acc => acc
  | n + 1, fr, root, acc =>
    let root' := isqrt (root * 2 ^ specP)
    let acc' := if fr.testBit n then (acc * root') / 2 ^ specP else acc
    exp2Bits n fr root' acc'

/-- 2^a (R173). -/
def exp2F (m : Nat) : FVal → Nat × Flags
  | .nan s => (fp32.nanBits, nvIf s)
  | .inf neg => (if neg then 0 else fp32.infBits false, 0)
  | .fin neg mm e =>
    if mm = 0 then fp32.roundRat m false 1 1
    else
      let fb := (if e < 0 then -e else 0).toNat
      let x : Int := (if neg then -1 else 1) * ((mm : Int) * (2 ^ (e + fb).toNat : Nat))
      let k := x / (2 ^ fb : Nat)
      let fr := (x % (2 ^ fb : Nat)).toNat
      let kk := if k > 200 then 200 else if k < -300 then -300 else k
      if fr = 0 then let p := pow2 kk; fp32.roundRat m false p.1 p.2
      else
        let t := exp2Bits fb fr (2 * 2 ^ specP) (2 ^ specP)
        fp32.roundBetween m false (2 * t + 1) (2 * t + 1) (kk - 1)

/-- Digits of log2 of y/2^specP in [1, 2), by repeated squaring. -/
def log2Bits : Nat → Nat → Nat → Nat
  | 0, _, acc => acc
  | n + 1, y, acc =>
    let sq := y * y / 2 ^ specP
    if 2 * 2 ^ specP ≤ sq then log2Bits n (sq / 2) (2 * acc + 1) else log2Bits n sq (2 * acc)

/-- log2 a (R173). -/
def log2F (m : Nat) : FVal → Nat × Flags
  | .nan s => (fp32.nanBits, nvIf s)
  | .inf neg => if neg then (fp32.nanBits, flagNV) else (fp32.infBits false, 0)
  | .fin neg mm e =>
    if mm = 0 then (fp32.infBits true, flagDZ)
    else if neg then (fp32.nanBits, flagNV)
    else
      let h := Nat.log2 mm
      let k : Int := (h : Int) + e
      if mm = 2 ^ h then
        (if k = 0 then (0, 0) else fp32.roundRat m (decide (k < 0)) k.natAbs 1)
      else
        let y := mm * 2 ^ specP / 2 ^ h
        let d := log2Bits 200 y 0
        let v : Int := 2 * (k * (2 ^ 200 : Nat) + d) + 1
        fp32.roundRat m (decide (v < 0)) v.natAbs (2 ^ 201)

/-- Terms of arctan(1/x) in fixed point, alternating. -/
def atanTerms : Nat → Nat → Nat → Nat → Bool → Int → Int
  | 0, _, _, _, _, acc => acc
  | n + 1, x, pw, k, minus, acc =>
    let t : Int := (pw / k : Nat)
    atanTerms n x (pw / (x * x)) (k + 2) (!minus) (if minus then acc - t else acc + t)

/-- π in units of 2^-(specP + 32), by Machin's formula. -/
def piFix : Nat :=
  let one := 2 ^ (specP + 32)
  (16 * atanTerms 125 5 (one / 5) 1 false 0 - 4 * atanTerms 40 239 (one / 239) 1 false 0).toNat

/-- Terms of the sine or cosine series in fixed point: term, next divisor, square of the angle. -/
def trigTerms : Nat → Nat → Nat → Nat → Bool → Int → Int
  | 0, _, _, _, _, acc => acc
  | n + 1, t, k, x2, minus, acc =>
    let acc' := if minus then acc - (t : Int) else acc + (t : Int)
    trigTerms n (t * x2 / 2 ^ specP / (k * (k + 1))) (k + 2) x2 (!minus) acc'

/-- The angle 2π·t, with t = n/2^b, in units of 2^-specP. -/
def angleFix (n b : Nat) : Nat := 2 * piFix * n / 2 ^ (b + 32)

/-- sin of 2π·n/2^b in units of 2^-specP, for n/2^b at most 1/8. -/
def sinFix (n b : Nat) : Int :=
  let x := angleFix n b
  trigTerms 60 x 2 (x * x / 2 ^ specP) false 0

/-- cos of 2π·n/2^b in units of 2^-specP, for n/2^b at most 1/8. -/
def cosFix (n b : Nat) : Int :=
  let x := angleFix n b
  trigTerms 60 (2 ^ specP) 1 (x * x / 2 ^ specP) false 0

/-- sin(2πt) for the fraction t = fr/2^b of a turn, not a multiple of 1/4: the octants of the turn fold onto [0, 1/8]. -/
def sinTurn (m : Nat) (flip : Bool) (fr b : Nat) : Nat × Flags :=
  let half := 2 ^ b / 2
  let neg : Bool := decide (half ≤ fr) != flip
  let u := fr % half
  let v := if 2 * u > half then half - u else u
  let s := if 4 * v > half then cosFix (half / 2 - v) b else sinFix v b
  fp32.roundBetween m neg (2 * s + 1).toNat (2 * s + 1).toNat (-1)

/-- sin(2πa) and cos(2πa) (R173); cosine is the sine a quarter turn on. -/
def trigF (cosine : Bool) (m : Nat) : FVal → Nat × Flags
  | .nan s => (fp32.nanBits, nvIf s)
  | .inf _ => (fp32.nanBits, flagNV)
  | .fin neg mm e =>
    let b := (if e < -3 then -e else 3).toNat
    let fr0 := mm * 2 ^ (e + b).toNat % 2 ^ b
    if cosine then
      let fr := (fr0 + 2 ^ b / 4) % 2 ^ b
      if fr0 % (2 ^ b / 4) = 0 then
        (if fr = 0 ∨ fr = 2 ^ b / 2 then (0, 0) else fp32.roundRat m (decide (fr = 3 * (2 ^ b / 4))) 1 1)
      else sinTurn m false fr b
    else
      if fr0 % (2 ^ b / 2) = 0 then (fp32.zeroBits neg, 0)
      else if fr0 % (2 ^ b / 4) = 0 then fp32.roundRat m (decide (fr0 = 3 * (2 ^ b / 4)) != neg) 1 1
      else sinTurn m neg fr0 b

/-- 1 ÷ a (R173). -/
def rcpF (m : Nat) (x : FVal) : Nat × Flags := fp32.divide m (.fin false 1 0) x

/-- √a (R173). -/
def sqrtF (m : Nat) : FVal → Nat × Flags
  | .nan s => (fp32.nanBits, nvIf s)
  | .inf neg => if neg then (fp32.nanBits, flagNV) else (fp32.infBits false, 0)
  | .fin neg mm e =>
    if mm = 0 then (fp32.zeroBits neg, 0)
    else if neg then (fp32.nanBits, flagNV)
    else let p := pow2 e; fp32.roundSqrt m (mm * p.1) p.2

/-- 1 ÷ √a (R173). -/
def rsqF (m : Nat) : FVal → Nat × Flags
  | .nan s => (fp32.nanBits, nvIf s)
  | .inf neg => if neg then (fp32.nanBits, flagNV) else (0, 0)
  | .fin neg mm e =>
    if mm = 0 then (fp32.infBits neg, flagDZ)
    else if neg then (fp32.nanBits, flagNV)
    else let p := pow2 e; fp32.roundSqrt m p.2 (mm * p.1)

end Sys2Proof.Machine
end

