-- ==== Sys2Proof/Machine/Format.lean ====
section
/-! DEFINITION. MK8 and CB4, the formats of R174, conversions (R81, R84, R86) and the quantisation scale (R88). -/

namespace Sys2Proof.Machine

/-- Length of the run of bits equal to b in the low n bits of x, from bit n - 1 down (R83). -/
def runLength (b : Bool) (x : Nat) : Nat → Nat
  | 0 => 0
  | n + 1 => if x.testBit n = b then 1 + runLength b x n else 0

/-- The magnitude of a non-zero MK8 body (R83). -/
def mk8Mag (neg : Bool) (body : Nat) : FVal :=
  let b := body.testBit 6
  let j := runLength b body 7
  let k : Int := if b then (j : Int) - 1 else -(j : Int)
  let rest := 7 - j - 1
  let e : Int := if rest = 0 then 0 else if body.testBit (rest - 1) then 1 else 0
  let nf := rest - 1
  .fin neg (2 ^ nf + body % 2 ^ nf) (2 * k + e - nf)

/-- value(MK8, b) (R83): 0x00 is zero, 0x80 the only NaN. -/
def mk8Decode (b : Nat) : FVal :=
  if b % 256 = 0 then .fin false 0 0
  else if b % 256 = 128 then .nan false
  else mk8Mag (b.testBit 7) (b % 128)

/-- The largest body whose magnitude is at most |x|, found bit by bit, since magnitudes rise with the body (R83). -/
def mk8Floor (x : FVal) : Nat → Nat → Nat
  | 0, acc => acc
  | n + 1, acc =>
    let t := acc + 2 ^ n
    mk8Floor x n (if FVal.cmp (mk8Mag false t) x ≤ 0 then t else acc)

/-- Conversion to MK8 (R84). -/
def mk8Encode (m : Nat) (x : FVal) : Nat × Flags :=
  let neg := x.isNeg
  let a := x.abs
  let signed (body : Nat) : Nat := if body = 0 then 0 else if neg then 128 + body else body
  match x with
  | .nan _ => (0x80, flagNV)
  | .inf _ => (signed 127, flagOF ||| flagNX)
  | .fin _ mm _ =>
    if mm = 0 then (0, 0)
    else if FVal.cmp (.fin false 4096 0) a < 0 then (signed 127, flagOF ||| flagNX)
    else
      let b := mk8Floor a 7 0
      let lowV : FVal := if b = 0 then .fin false 0 0 else mk8Mag false b
      if FVal.cmp lowV a = 0 then (signed b, 0)
      else
        let dLow := (FVal.add 0 a lowV.neg).1
        let dHigh := (FVal.add 0 (mk8Mag false (b + 1)) a.neg).1
        let c := FVal.cmp dLow dHigh
        let up : Bool :=
          if m = 0 then decide (c > 0) || (decide (c = 0) && decide (b % 2 = 1))
          else if m = 1 then false
          else if m = 2 then !neg
          else neg
        (signed (if up then b + 1 else b), flagNX)

/-! ### CB4 (R85, R86) -/

/-- Entry i of a codebook of BF16 patterns. -/
def cbEntry (cb : List Nat) (i : Nat) : FVal := bf16.decode (cb.getD i 0)

/-- The exact distance of R86 from a finite x: an infinite entry is at infinite distance. -/
def cbDist (x e : FVal) : FVal := (FVal.add 0 x e.neg).1.abs

/-- Among the indices of the list, the first for which key is least under FVal.cmp. -/
def argMin (key : Nat → FVal) : List Nat → Option Nat
  | [] => none
  | i :: r =>
    match argMin key r with
    | none => some i
    | some j => if FVal.cmp (key i) (key j) ≤ 0 then some i else some j

/-- Conversion to a CB4 index (R86). NX is set wherever the chosen entry differs from x, also beside the NV of a NaN that finds no
NaN entry and of a codebook of NaNs alone. DEDUCED (log 128). -/
def cb4Encode (cb : List Nat) (x : FVal) : Nat × Flags :=
  let all := List.range 16
  let cands := all.filter (fun i => !(cbEntry cb i).isNan)
  match x with
  | .nan s =>
    match all.find? (fun i => (cbEntry cb i).isNan) with
    | some i => (i, nvIf s)
    | none => (0, flagNV ||| flagNX)
  | .inf neg =>
    match argMin (fun i => if neg then cbEntry cb i else (cbEntry cb i).neg) cands with
    | none => (0, flagNV ||| flagNX)
    | some i => (i, if FVal.cmp (cbEntry cb i) x = 0 then 0 else flagNX)
  | .fin _ _ _ =>
    match argMin (fun i => cbDist x (cbEntry cb i)) cands with
    | none => (0, flagNV ||| flagNX)
    | some i => (i, if FVal.cmp (cbEntry cb i) x = 0 then 0 else flagNX)

/-! ### Conversions by the format codes of R174 -/

/-- Width in bits of a format code. -/
def codeWidth (c : Nat) : Nat :=
  if c = 0 ∨ c = 5 ∨ c = 6 then 32 else if c = 1 ∨ c = 11 ∨ c = 12 then 64
  else if c = 4 ∨ c = 9 ∨ c = 10 then 8 else 16

/-- Is a format code an integer format? -/
def codeIsInt (c : Nat) : Bool := decide (5 ≤ c)

/-- Is an integer format code signed? -/
def codeSigned (c : Nat) : Bool := c % 2 == 1

/-- The IEEE-style format of a code. -/
def codeFmt (c : Nat) : Fmt := if c = 0 then fp32 else if c = 1 then fp64 else if c = 2 then fp16 else bf16

/-- The value of a pattern in a floating format code. -/
def codeDecode (c b : Nat) : FVal := if c = 4 then mk8Decode b else (codeFmt c).decode b

/-- The integer an n-bit pattern stands for. -/
def intOf (signed : Bool) (n b : Nat) : Int := if signed then sextInt n b else Int.ofNat (b % 2 ^ n)

/-- Range of an integer type. -/
def intLo (signed : Bool) (n : Nat) : Int := if signed then -(2 ^ (n - 1) : Nat) else 0
def intHi (signed : Bool) (n : Nat) : Int := if signed then (2 ^ (n - 1) : Nat) - 1 else (2 ^ n : Nat) - 1

/-- Round a finite value to an integer: the result and whether it is inexact (R81). -/
def toIntegral (m : Nat) (neg : Bool) (mm : Nat) (e : Int) : Int × Bool :=
  let p := pow2 e
  let t := mm * p.1 / p.2
  let r := mm * p.1 % p.2
  let u := if roundsUp m neg t r p.2 then t + 1 else t
  (if neg then -(u : Int) else (u : Int), r != 0)

/-- Conversion to an integer type with saturation (R81). -/
def floatToInt (signed : Bool) (n m : Nat) : FVal → Nat × Flags
  | .nan _ => (0, flagNV)
  | .inf neg => (wrapNat n (if neg then intLo signed n else intHi signed n), flagNV)
  | .fin neg mm e =>
    let r := toIntegral m neg mm e
    let s := satInt r.1 (intLo signed n) (intHi signed n)
    (wrapNat n s, if s ≠ r.1 then flagNV else if r.2 then flagNX else 0)

/-- An exact value from an integer. -/
def intVal (x : Int) : FVal := .fin (decide (x < 0)) x.natAbs 0

/-- encode into a floating format code (R81, R84). -/
def encodeFloat (c m : Nat) (x : FVal) : Nat × Flags :=
  if c = 4 then mk8Encode m x
  else let r := (codeFmt c).round m x; (r.1, r.2 ||| nvIf x.isSig)

/-- cvt(x, D, S, m) with the .sat choice (R174). -/
def cvt (d s m : Nat) (sat : Bool) (b : Nat) : Nat × Flags :=
  if codeIsInt s then
    let x := intOf (codeSigned s) (codeWidth s) b
    if codeIsInt d then
      let y := if sat then satInt x (intLo (codeSigned d) (codeWidth d)) (intHi (codeSigned d) (codeWidth d)) else x
      (wrapNat (codeWidth d) y, 0)
    else encodeFloat d m (intVal x)
  else if codeIsInt d then floatToInt (codeSigned d) (codeWidth d) m (codeDecode s b)
  else encodeFloat d m (codeDecode s b)

/-! ### Quantisation (R88) -/

/-- Target codes of VQHIST and VQNT: 0 FP32, 1 BF16, 2 FP16, 3 MK8, 4 INT8, 5 CB4. top(F) of R88. -/
def qTop (cb : List Nat) (f : Nat) : Int :=
  if f = 0 ∨ f = 1 then 127 else if f = 2 then 15 else if f = 3 then 12 else if f = 4 then 6
  else
    let vs := ((List.range 16).map (cbEntry cb)).filter (fun v => v.isFinite && !v.isZero)
    vs.foldl (fun acc v => if acc = none ∨ acc.getD 0 < v.expo then some v.expo else acc) none |>.getD 0

/-- qscale(x, n, P, F) of R88. -/
def qscale (xs : List FVal) (p : Nat) (top : Int) : Int :=
  let es := (xs.filter (fun v => v.isFinite && !v.isZero)).map FVal.expo
  let c := es.length
  if c = 0 then 0
  else
    let l := (256 - p) * c / 256
    let ok := es.filter (fun e => (es.filter (fun v => decide (v > e))).length ≤ l)
    let e := ok.foldl (fun acc v => if v < acc then v else acc) (ok.headD 0)
    satInt (e - top) (-127) 127

/-- encode(F, y, RM) by the target codes of VQNT (R180). -/
def qEncode (cb : List Nat) (f m : Nat) (y : FVal) : Nat × Flags :=
  if f = 0 then encodeFloat 0 m y else if f = 1 then encodeFloat 3 m y else if f = 2 then encodeFloat 2 m y
  else if f = 3 then mk8Encode m y else if f = 4 then floatToInt true 8 m y else cb4Encode cb y

end Sys2Proof.Machine
end

