-- ==== Sys2Proof/Machine/Flags.lean ====
section
/-! DEFINITION. Conditions (R140, R158, R171), the class of a value (R172), and the results of the lane-wise arithmetic
with the flags they raise (R66, R79, R80, R158, R167, R170, R173). -/

namespace Sys2Proof.Machine

/-- The conditions of CMP and VCMP (R158, R168). -/
def intCond (m : Nat) (a b : Int) : Bool :=
  if m = 0 then decide (a = b) else if m = 1 then decide (a ≠ b) else if m = 2 then decide (a < b)
  else if m = 3 then decide (a ≤ b) else if m = 4 then decide (b < a) else decide (b ≤ a)

/-- The conditions of BRC (R140). -/
def brcCond (m : Nat) (x y : Word) : Bool :=
  if m = 0 then x == y else if m = 1 then x != y else if m = 2 then decide (x.toInt < y.toInt)
  else if m = 3 then decide (y.toInt ≤ x.toInt) else if m = 4 then decide (x.toNat < y.toNat)
  else decide (y.toNat ≤ x.toNat)

/-- The conditions of VFCMP (R171). -/
def fpCond (m : Nat) (x y : FVal) : Bool :=
  let un := x.isNan || y.isNan
  if m = 6 then un else if m = 7 then !un
  else !un && intCond m (FVal.cmp x y) 0

/-- The class bit of VFCLS (R172). -/
def fpClass (f : Fmt) (b : Nat) : Nat :=
  let sub : Bool := decide ((b >>> f.fb) % 2 ^ f.eb = 0)
  match f.decode b with
  | .nan s => if s then 1 else 2
  | .inf n => if n then 4 else 512
  | .fin n m _ => if m = 0 then (if n then 32 else 64)
    else if n then (if sub then 16 else 8) else (if sub then 128 else 256)

/-! ### Integer results (R158, R167) -/

/-- Quotient truncated toward zero; a zero divisor gives all ones (R158). -/
def divTrunc (a b : Int) : Int := if b = 0 then -1 else Int.tdiv a b
/-- Remainder of the truncated quotient; a zero divisor gives the dividend (R158). -/
def remTrunc (a b : Int) : Int := if b = 0 then a else a - b * Int.tdiv a b
/-- A bitwise operation on n-bit patterns. -/
def bitwise (n : Nat) (f : Nat → Nat → Nat) (a b : Int) : Int := Int.ofNat (f (wrapNat n a) (wrapNat n b))
/-- A rotation left by sh within n bits (R158). -/
def rotl (n sh : Nat) (a : Int) : Int :=
  let x := wrapNat n a
  Int.ofNat (((x <<< sh) ||| (x >>> (n - sh))) % 2 ^ n)

/-- pos and len of BFE and BFI for width n (R158). -/
def bfPos (n : Nat) (b : Int) : Nat := min (wrapNat 64 b % 256) n
def bfLen (n : Nat) (b : Int) : Nat := min (wrapNat 64 b / 256 % 256) (n - bfPos n b)
/-- BFE (R158). -/
def bfe (n : Nat) (signed : Bool) (a b : Int) : Int :=
  let f := (wrapNat n a) >>> bfPos n b % 2 ^ bfLen n b
  if bfLen n b = 0 then 0 else if signed then sextInt (bfLen n b) f else Int.ofNat f
/-- BFI (R158): bits pos to pos + len - 1 of a replaced by the low bits of b. -/
def bfi (n : Nat) (a b c : Int) : Int :=
  let pos := bfPos n c
  let field := (2 ^ bfLen n c - 1) * 2 ^ pos
  Int.ofNat ((wrapNat n a &&& (2 ^ n - 1 - field)) ||| (wrapNat n b * 2 ^ pos &&& field))

/-! ### Floating-point results (R170) -/

/-- VFRND: rounded to an integral value; NX only when x asks for it; the sign of a zero result is kept. -/
def fpRound (f : Fmt) (m : Nat) (x : Bool) (b : Nat) : Nat × Flags :=
  match f.decode b with
  | .nan s => (f.nanBits, nvIf s)
  | .inf _ => (b, 0)
  | .fin neg mm e =>
    let r := toIntegral m neg mm e
    ((f.round m (.fin neg r.1.natAbs 0)).1, if r.2 && x then flagNX else 0)

/-- VFABS and VFNEG: only the sign bit changes; a NaN becomes the canonical NaN. -/
def fpSign (f : Fmt) (neg : Bool) (b : Nat) : Nat × Flags :=
  let v := f.decode b
  if v.isNan then (f.nanBits, nvIf v.isSig)
  else
    let body := b % 2 ^ (f.eb + f.fb)
    (if neg && !(b.testBit (f.eb + f.fb)) then body + 2 ^ (f.eb + f.fb) else body, 0)

/-- Join two results' flags over a list of lanes. -/
def orFlags (l : List Flags) : Flags := l.foldl (fun a b => a ||| b) 0

end Sys2Proof.Machine
end

