-- ==== Sys2Proof/Machine/Translate.lean ====
section
/-! DEFINITION. Translation (R360 to R363): the windows outside translation, the walk of the table in G, the TLBs, and where
a byte lies. -/

namespace Sys2Proof.Machine

/-- Kinds of access and the right each needs (R362). -/
inductive AccKind where
  | fetch
  | load
  | store
  | atomic
  deriving DecidableEq, Repr

/-- The windows of R360 and their addresses. -/
def apertureBase : Nat := 0x01FFFFFFFFC00000
def wakeBase : Nat := 0x01FFFFFFFF800000
def holeBase : Nat := 0x01FFFFFFFF880000
/-- Firmware space in physical addresses (R366). -/
def firmwareBase : Nat := 0xFFFFF00000000
def firmwareSize : Nat := 0x100000000

/-- A fatal page fault (R349 class 8). -/
def pageFault (cause va : Nat) : MemFault :=
  { cls := 8, cause := cause, va := BitVec.ofNat 64 va, replayable := false }

/-! ### Entries (R362) -/

/-- Bits that an entry must leave zero: [63:60], [56:52], [11:8], [2]. -/
def entryReserved (e : Nat) : Bool := (e &&& 0xF1F0000000000F04) != 0
/-- PA of an entry. -/
def entryPA (e : Nat) : Nat := bits e 51 12 * 4096

/-- Where the leaf of an address lies: its entry's address, and its level. -/
def leafAt (g : Memory) (va : Nat) : Nat → Nat → Option (Nat × Nat)
  | 0, _ => none
  | lvl + 1, table =>
    let a := table + 8 * (va / 2 ^ (12 + 9 * lvl) % 512)
    let e := Memory.readNat g a 8
    if !bit e 0 then none else if bit e 6 then some (a, lvl) else leafAt g va lvl (entryPA e)

/-- All leaves below a table: entry address and level. -/
def leavesOf (g : Memory) : Nat → Nat → List (Nat × Nat)
  | 0, _ => []
  | lvl + 1, table =>
    (List.range 512).flatMap (fun i =>
      let a := table + 8 * i
      let e := Memory.readNat g a 8
      if !bit e 0 then [] else if bit e 6 then [(a, lvl)] else leavesOf g lvl (entryPA e))

/-- The root table. -/
def State.rootTable (s : State) : Nat := s.firm.ptroot.toNat / 4096 * 4096

/-- Bytes of the page of a leaf at a level. -/
def leafSize (lvl : Nat) : Nat := 2 ^ (12 + 9 * lvl)

/-- Is a physical address in host memory reached over CXL: does a leaf with HOST set map it (R362)? -/
def State.hostMemory (s : State) (pa : Nat) : Bool :=
  (leavesOf s.g 5 s.rootTable).any (fun q =>
    let e := Memory.readNat s.g q.1 8
    bit e 7 && decide (entryPA e ≤ pa) && decide (pa < entryPA e + leafSize q.2))

/-- The home base die of a physical address (R188): BD0 for host memory, else one that the part fixes. -/
def State.homeOf (s : State) (pa : Nat) : Nat := if s.hostMemory pa then 0 else Config.homeDie pa % 4

/-- Does the entry give the right an access needs? -/
def entryAllows (k : AccKind) (e : Nat) : Bool :=
  match k with
  | .fetch => bit e 5
  | .load => bit e 3
  | .store => bit e 4
  | .atomic => bit e 3 && bit e 4

/-- What a walk finds: a leaf with the physical 4 KiB page of the address, or a cause and whether it is replayable. -/
inductive WalkEnd where
  | leaf (entry page : Nat)
  | bad (cause : Nat) (replayable : Bool)
  deriving DecidableEq, Repr

/-- The 16 entries of a CONT group agree: consecutive pages, equal bits [59:57] and [7:0] (R362). -/
def contAgrees (es : List Nat) : Bool :=
  es.zipIdx.all (fun q =>
    entryPA q.1 == entryPA (es.headD 0) + q.2 * 4096 && bits q.1 59 57 == bits (es.headD 0) 59 57 &&
    bits q.1 7 0 == bits (es.headD 0) 7 0)

/-- A 4 KiB leaf of a CONT group (R362): in a group that does not agree, the PA base and attributes of the entry of a
free choice translate, taken at the place of that entry in the group. DEDUCED (log 30). -/
def contLeaf (g : Memory) (free va table entry : Nat) : WalkEnd :=
  let own := va / 4096 % 512
  let es := (List.range 16).map (fun j => Memory.readNat g (table + 8 * (own / 16 * 16 + j)) 8)
  if !bit entry 57 || contAgrees es then .leaf entry (entryPA entry)
  else
    let j := Config.contEntry free (va / 65536) % 16
    let e := es.getD j 0
    if !bit e 0 then .bad 1 (bit e 1) else .leaf e (entryPA e + own % 16 * 4096 - j * 4096)

/-- The 5-level walk from a table (R361), read from G. V = 0 is cause 1 whatever the other bits hold. -/
def walkFrom (g : Memory) (free va : Nat) : Nat → Nat → WalkEnd
  | 0, _ => .bad 4 false
  | lvl + 1, table =>
    let e := Memory.readNat g (table + 8 * (va / 2 ^ (12 + 9 * lvl) % 512)) 8
    if !bit e 0 then .bad 1 (bit e 1)
    else if entryReserved e then .bad 4 false
    else if bit e 6 then
      if 3 ≤ lvl then .bad 4 false
      else if entryPA e % 2 ^ (12 + 9 * lvl) ≠ 0 then .bad 4 false
      else if lvl = 0 then contLeaf g free va table e
      else .leaf e (entryPA e + va % 2 ^ (12 + 9 * lvl) / 4096 * 4096)
    else walkFrom g free va lvl (entryPA e)

/-- The cached translation of a page in a core's TLB or its cluster's (R363). -/
def State.cached? (s : State) (core va : Nat) : Option TlbEntry :=
  ((s.core core).tlb ++ (s.cluster (clusterOf core)).tlb).find? (fun t => t.vpn == va / 4096)

/-- The leaf that translates an address: a cached one by a free choice, or the walk (R361, R363). -/
def State.lookup (s : State) (core va : Nat) : WalkEnd :=
  match s.cached? core va with
  | some t =>
    if Config.tlbHit s.free t.vpn then .leaf t.entry t.page
    else walkFrom s.g s.free va 5 (s.firm.ptroot.toNat / 4096 * 4096)
  | none => walkFrom s.g s.free va 5 (s.firm.ptroot.toNat / 4096 * 4096)

/-- Check a leaf's rights and owner (R217, R361, R362, R366): firmware space is a fatal fault whatever the leaf holds; a missing
right is judged before OWN, and a system-scope synchronising access passes OWN (R219). -/
def checkLeaf (k : AccKind) (sys : Bool) (va entry page : Nat) : Except MemFault Nat :=
  if firmwareBase ≤ page ∧ page < firmwareBase + firmwareSize then .error (pageFault 2 va)
  else if !entryAllows k entry then
    .error { pageFault 2 va with replayable := bit entry 1, lacksW := entryAllows k (entry ||| 2 ^ 4) }
  else if bit entry 59 && !sys then
    .error { cls := 9, cause := 1, va := BitVec.ofNat 64 va, replayable := true }
  else .ok page

/-- The physical page of a translated address. -/
def State.pageOf (s : State) (core : Nat) (k : AccKind) (sys : Bool) (va : Nat) : Except MemFault Nat :=
  match s.lookup core va with
  | .bad c r => .error { pageFault c va with replayable := r }
  | .leaf e p => checkLeaf k sys va e p

/-- The checks of an aperture byte (R190). fifo says that the access is FPUT or FGET. -/
def State.apertureLoc (s : State) (cluster region : Nat) (va : Nat) : Except MemFault Loc :=
  let o := va - apertureBase
  let b := (s.cluster cluster).banks.getD (o / 262144) Bank.reset
  if b.mode = .cache then .error (pageFault 1 va)
  else if b.holder ≠ some region then .error (pageFault 2 va)
  else if b.mode = .fifo then .error (pageFault 2 va)
  else .ok (.bank (o / 262144) (o % 262144))

/-- A window outside translation, or none (R190, R360, R371). -/
def State.windowLoc (s : State) (cluster region va : Nat) : Option (Except MemFault Loc) :=
  if 2 ^ 57 ≤ va then some (.error (pageFault 3 va))
  else if apertureBase ≤ va then some (s.apertureLoc cluster region va)
  else if holeBase ≤ va then some (.error (pageFault 3 va))
  else if wakeBase ≤ va then some (.ok (.wake ((va - wakeBase) / 512) ((va - wakeBase) % 512 / 8)))
  else none

/-- Where each of a list of byte addresses lies. The first address that faults gives the fault (log 26). -/
def State.locsWith (s : State) (core region : Nat) (k : AccKind) (sys : Bool) :
    List Nat → List (Nat × Nat) → Except MemFault (List Loc)
  | [], _ => .ok []
  | va :: r, acc =>
    match s.windowLoc (clusterOf core) region va with
    | some (.error f) => .error f
    | some (.ok l) =>
      match s.locsWith core region k sys r acc with
      | .error f => .error f
      | .ok ls => .ok (l :: ls)
    | none =>
      match look (va / 4096) acc with
      | some p =>
        match s.locsWith core region k sys r acc with
        | .error f => .error f
        | .ok ls => .ok (.mem (p + va % 4096) :: ls)
      | none =>
        match s.pageOf core k sys va with
        | .error f => .error f
        | .ok p =>
          match s.locsWith core region k sys r ((va / 4096, p) :: acc) with
          | .error f => .error f
          | .ok ls => .ok (.mem (p + va % 4096) :: ls)

/-- Where each of a list of byte addresses lies, each page translated once. -/
def State.locs (s : State) (core region : Nat) (k : AccKind) (sys : Bool) (vas : List Nat) :
    Except MemFault (List Loc) := s.locsWith core region k sys vas []

/-- Put a translation into a TLB of some capacity, the newest first (R363). -/
def tlbPut (cap : Nat) (t : TlbEntry) (l : List TlbEntry) : List TlbEntry :=
  (t :: l.filter (fun u => u.vpn != t.vpn)).take cap

/-- The TLBs after a core has translated an address (R363): a walked leaf is kept by the core and its cluster. -/
def State.tlbFill1 (s : State) (core va : Nat) : State :=
  if apertureBase ≤ va ∨ wakeBase ≤ va then s
  else match s.lookup core va with
    | .bad _ _ => s
    | .leaf e p =>
      let t : TlbEntry := { vpn := va / 4096, entry := e, page := p }
      (s.updCore core (fun c => { c with tlb := tlbPut 256 t c.tlb })).updCluster (clusterOf core)
        (fun c => { c with tlb := tlbPut 4096 t c.tlb })

/-! ### The orientation of LLC sectors (R195, R196) -/

/-- The LLC sector of an address on a square-tiled page (R195, R362). -/
def State.sector? (s : State) (core va : Nat) : Option Nat :=
  if wakeBase ≤ va then none
  else match s.lookup core va with
    | .bad _ _ => none
    | .leaf e p => if bit e 58 then some ((p + va % 4096) / 1024) else none

/-- Sectors serve lines of one orientation: col says column lines (R196). -/
def State.turned (s : State) (col : Bool) (ks : List Nat) : State :=
  { s with cols := if col then ks.foldl (fun l k => insertNat k l) s.cols else s.cols.filter (fun k => !ks.contains k) }

/-- An access of a core or its Dolly to a list of addresses: the sectors that it meets have their orientation bits set by it, one
that crosses the recorded orientation flipping its bit (R195, R196). DESIGN CHOICE for which accesses the LLC serves (log 114). -/
def State.serve (s : State) (core : Nat) (col : Bool) (vas : List Nat) : State :=
  s.turned col (((vas.map (fun va => va / 1024)).dedup).filterMap (fun b => s.sector? core (b * 1024)))

/-- An access of another agent to bytes of memory is one by row lines (R196). -/
def State.servedRows (s : State) (pas : List Nat) : State := s.turned false ((pas.map (fun a => a / 1024)).dedup)

/-- What an access of a core to a list of addresses leaves behind besides its values: the translations of its pages in the TLBs
(R363), and the orientation of the sectors that it meets (R196). -/
def State.tlbFillBy (s : State) (core : Nat) (col : Bool) (vas : List Nat) : State :=
  ((vas.map (fun va => va / 4096 * 4096)).dedup).foldl (fun t va => t.tlbFill1 core va) (s.serve core col vas)

/-- The same for an access by row lines, as all but those of the column layouts are. -/
def State.tlbFill (s : State) (core : Nat) (vas : List Nat) : State := s.tlbFillBy core false vas

/-- n consecutive byte addresses, modulo 2^64. -/
def span (a n : Nat) : List Nat := (List.range n).map (fun i => (a + i) % 2 ^ 64)

end Sys2Proof.Machine
end

