-- ==== Sys2Proof/Machine/Operands.lean ====
section
/-! DEFINITION. The operand forms: element types (R109, R162), register, broadcast and literal sources (R75, R76, R110,
R138, R163), effective addresses (R112, R220, R226) and active lanes (R6). -/

namespace Sys2Proof.Machine

/-- An element type: the kind of its registers, element bytes, elements a lane. -/
structure Elem where
  kind : Kind
  bytes : Nat
  count : Nat
  deriving DecidableEq, Repr

/-- Width of an element in bits. -/
def Elem.bits (e : Elem) : Nat := 8 * e.bytes

/-- The vector integer column of R109. -/
def intElem (ty : BitVec 3) : Elem :=
  { kind := intKind ty, count := intElems ty,
    bytes := if 6 ≤ ty.toNat then 8 else if ty.toNat ≤ 1 then 4 else if ty.toNat ≤ 3 then 2 else 1 }
/-- The .i types of the vector integer column, and the signed scalar types. -/
def tySigned (ty : BitVec 3) : Bool := ty.toNat % 2 == 0
/-- The vector floating-point column of R109. -/
def fpElem (ty : BitVec 3) : Elem :=
  { kind := fpKind ty, count := fpElems ty, bytes := if ty.toNat = 0 then 4 else if ty.toNat = 1 then 8 else 2 }
/-- The format of a floating-point type. -/
def fpFmt (ty : BitVec 3) : Fmt :=
  if ty.toNat = 0 then fp32 else if ty.toNat = 1 then fp64 else if ty.toNat = 2 then fp16 else bf16
/-- A 32-bit element in a vector register. -/
def elem32 : Elem := { kind := .vec, bytes := 4, count := 1 }
/-- A 64-bit element in a pair register. -/
def elem64 : Elem := { kind := .pair, bytes := 8, count := 1 }
/-- Element 0 of a format code's width (R174, R175). -/
def codeElem (c : Nat) : Elem := { kind := codeKind c, bytes := codeWidth c / 8, count := 1 }

/-- A literal held in a source field, as an n-bit pattern (R110, R163). -/
def litBits (n : Nat) (f : BitVec 8) : Nat := wrapNat n f.toInt

/-- The broadcast's low n bits (R76, R110): the literal of the replaced field when BS is 63. -/
def bcastBits (v : Crew) (o : FieldsR) (n : Nat) (field : BitVec 8) : Nat :=
  if o.bs = 63 then litBits n field else (v.rs o.bs.toNat).toNat % 2 ^ n

/-- src(k, i, j): element j of lane i of source k, whose field is given (R163). -/
def srcElem (v : Crew) (o : FieldsR) (k : Nat) (field : BitVec 8) (e : Elem) (i j : Nat) : Nat :=
  if replaces o k then bcastBits v o e.bits field else v.elem e.kind field.toNat i e.bytes j

/-- Source k of a scalar instruction as a 64-bit value (R138). -/
def scalarSrc (v : Crew) (o : FieldsR) (k : Nat) (field : BitVec 8) : Word :=
  if replaces o k then BitVec.ofInt 64 field.toInt else v.rs field.toNat

/-- The lanes on which a word acts: EXM and the predicate (R6). -/
def activeMask (v : Crew) (exm : Mask) (pred : BitVec 3) : Mask := exm &&& v.rk pred.toNat

/-- Effective address of form a (R220). -/
def addrA (v : Crew) (o : FieldsM) : Word := v.rs o.base.toNat + BitVec.ofInt 64 o.off.toInt
/-- The offset of form b (R112). -/
def off16 (o : FieldsM) : Int := sextInt 16 (fld o.off 15 0)
/-- Effective address of form b without a lane index (R220). -/
def addrB (v : Crew) (o : FieldsM) : Word := v.rs o.base.toNat + BitVec.ofInt 64 (off16 o)
/-- Lane address of a gather, scatter or vector atomic (R226). -/
def laneAddr (v : Crew) (o : FieldsM) (i : Nat) : Word :=
  addrB v o + BitVec.ofInt 64 (sextInt 32 (v.elem .vec (xrOf o) i 4 0))

/-- A target at a signed word offset from a clause header (R113). -/
def target (h : Word) (n off : Nat) : Word := h + BitVec.ofInt 64 (8 * sextInt n off)

/-- Write elements of a register lane by lane: f gives the pattern of lane i, element j. -/
def Crew.putLanes (c : Crew) (e : Elem) (num : Nat) (act : Mask) (f : Nat → Nat → Nat) : Crew :=
  (maskLanes act).foldl (fun d i =>
    (List.range e.count).foldl (fun d j => d.wrElem e.kind num i e.bytes j (f i j)) d) c

/-- Write whole lanes of a register as numbers. -/
def Crew.putWhole (c : Crew) (k : Kind) (num : Nat) (act : Mask) (f : Nat → Nat) : Crew :=
  (maskLanes act).foldl (fun d i => d.wrNat k num (i * k.laneBytes) k.laneBytes (f i)) c

/-- Lane i of a register as a number. -/
def Crew.laneNat (c : Crew) (k : Kind) (num i : Nat) : Nat := c.rdNat k num (i * k.laneBytes) k.laneBytes

end Sys2Proof.Machine
end

