-- ==== Sys2Proof/Machine/Route.lean ====
section
/-! DEFINITION. Routing of packets (R293 to R297, R304) and their injection. -/

namespace Sys2Proof.Machine

/-- The routing entry of a destination in a bank; one not written holds its reset value, unreachable (R296). -/
def State.routeEntry (s : State) (bank : BitVec 1) (dest : BitVec 10) : BitVec 16 :=
  (look (bank.toNat * 1024 + dest.toNat) s.fab.banks).getD 0x8000

/-- MODE of a routing entry (R296). -/
def routeMode (e : BitVec 16) : Nat := fld e 15 14

/-- Does the bank hold a routing table (R297)? -/
def State.bankValid (s : State) (bank : BitVec 1) : Bool := if bank = 0 then s.fab.valid0 else s.fab.valid1

/-- The port of the first hop of a minimal route: the row link first, then the column link (R294, R295). -/
def State.hopPort (s : State) (dest : BitVec 10) : Option Nat :=
  let row := fld s.pkgId 9 5
  let col := fld s.pkgId 4 0
  let drow := fld dest 9 5
  let dcol := fld dest 4 0
  if dcol ≠ col then some (if dcol < col then dcol else dcol - 1)
  else if drow ≠ row then some (31 + (if drow < row then drow else drow - 1))
  else none

/-- Is a destination reachable by the injection bank (R296)? The package itself always is (R322). -/
def State.reachable (s : State) (dest : BitVec 10) : Bool :=
  dest == s.pkgId || decide (routeMode (s.routeEntry s.fab.inj dest) ≤ 1)

/-- The step that a message of this package to itself becomes: it arrives without a link (R322). -/
def State.localStep (s : State) (control lossy : Bool) (m : Msg) : Instr :=
  .flitReceive 64 true
    { dest := s.pkgId, bank := s.fab.inj, via := none, passed := false, vcSet := 1, control := control, lossy := lossy, msg := m }

/-- A router looks a packet up in the packet's bank (R296): an entry of MODE 1 stamps its VIA, at most once; at the VIA itself the
stamp is cleared at once. none where the entry reads unreachable. -/
def State.lookUp (s : State) (p : Packet) : Option Packet :=
  let e := s.routeEntry p.bank p.dest
  if 2 ≤ routeMode e then none
  else if routeMode e = 0 ∨ p.passed then some { p with vcSet := 1 }
  else if e.setWidth 10 = s.pkgId then some { p with passed := true, vcSet := 1 }
  else some { p with via := some (e.setWidth 10), vcSet := 0 }

/-- The port on which a packet of this package to a destination leaves (R295, R296). -/
def State.portTo (s : State) (dest : BitVec 10) : Option Nat :=
  (s.lookUp { dest := dest, bank := s.fab.inj, via := none, passed := false, vcSet := 1, control := false, lossy := false,
              msg := .idle }).bind (fun p => s.hopPort (p.via.getD p.dest))

/-- Send a message (R296): to this package it becomes a step that waits; to an unreachable one it is not sent; at a
router without a table in the bank it is discarded (R297); otherwise it is stamped and held by the router. -/
def State.send (s : State) (dest : BitVec 10) (control lossy : Bool) (m : Msg) : State :=
  if dest = s.pkgId then s.post (s.localStep control lossy m)
  else if s.mode != .full || !s.bankValid s.fab.inj then s
  else
    match s.lookUp { dest := dest, bank := s.fab.inj, via := none, passed := false, vcSet := 1, control := control,
                     lossy := lossy, msg := m } with
    | none => s
    | some p => { s with fab := { s.fab with held := s.fab.held ++ [p] } }

/-- Send a message on the bridge ports that are up, control class only (R320). -/
def State.sendBridge (s : State) (m : Msg) : State :=
  if s.mode != .full then s
  else
    { s with fab := { s.fab with
        bridge := s.fab.bridge ++ (([62, 63] : List Nat).filter (fun p => (s.port p).up)).map (fun p => (p, m)) } }

/-- Packets of a bank bit held in this package's routers: CNT0 and CNT1 (R297). -/
def State.heldCount (s : State) (bank : BitVec 1) : Nat := (s.fab.held.filter (fun p => p.bank == bank)).length

end Sys2Proof.Machine
end

