-- ==== Sys2Proof/Machine/Publish.lean ====
section
/-! DEFINITION. Phase consistency (R199 to R205): writes of G and of core images, publish, refresh, the synchronising access,
what a write wakes (R47, R233), and the scratch banks (R193). -/

namespace Sys2Proof.Machine

/-! ### What a write wakes -/

/-- Wake a path that watches one of the granules (R47). -/
def Path.wake (p : Path) (granules : List Nat) : Path :=
  match p.wait with
  | .paused (some g) _ => if granules.contains g then { p with wait := .none } else p
  | _ => p

/-- Wake the paths, of one core or of all, that watch a granule of the bytes written (R47). -/
def State.wakeOn (s : State) (core : Option Nat) (pas : List Nat) : State :=
  let gs := (pas.map (fun a => a / 64)).dedup
  { s with crews := s.crews.map (fun c =>
      if core = none ∨ core = some c.core then c.mapPaths (fun p => p.wake gs) else c) }

/-- Does a value of an arrival counter end a wait (R233): bit 63, or the count reached? -/
def counterMeets (w : Nat) (target : Word) : Bool := bit w 63 || decide (target.toNat ≤ bits w 62 0)

/-- A waiting WAITC reads its word again when a write of it is performed (R233): the first value that ends the wait is
kept. rd answers the word's value where it is among the bytes written. -/
def Path.waitcRead (p : Path) (rd : Loc → Option Nat) : Path :=
  match p.wait with
  | .waitc reg va l target timeout t0 none =>
    (match rd l with
     | some w =>
       if counterMeets w target then { p with wait := .waitc reg va l target timeout t0 (some (BitVec.ofNat 64 w)) } else p
     | none => p)
  | _ => p

/-- Every WAITC whose word is among bytes of G written reads it again. -/
def State.waitcOn (s : State) (pas : List Nat) : State :=
  let ws := pas.map (fun a => a / 8)
  let rd : Loc → Option Nat
    | .mem pa => if ws.contains (pa / 8) then some (Memory.readNat s.g pa 8) else none
    | _ => none
  { s with crews := s.crews.map (fun c => c.mapPaths (fun p => p.waitcRead rd)) }

/-- Every WAITC on a bank of a cluster reads its word again. -/
def State.waitcBank (s : State) (cluster : Nat) : State :=
  let rd : Loc → Option Nat
    | .bank b off => some (Memory.readNat ((s.cluster cluster).banks.getD b Bank.reset).bytes off 8)
    | _ => none
  { s with crews := s.crews.map (fun c => if clusterOf c.core = cluster then c.mapPaths (fun p => p.waitcRead rd) else c) }

/-- The paths whose WAITC has read a value that ends its wait. -/
def State.waitcDone (s : State) : List PathRef :=
  s.allPaths.filterMap (fun q =>
    match q.2.wait with
    | .waitc _ _ _ _ _ _ (some _) => some q.1
    | _ => none)

/-- Let the waits that have ended be completed. -/
def State.postWaitc (s : State) : State := { s with inbox := s.inbox ++ s.waitcDone.map Instr.waitcTimeout }

/-- The pages of bytes written join those noted. -/
def noteAll (wrote : List Nat) : List Nat → List Nat
  | [] => wrote
  | a :: r => noteAll (insertNat (a / 4096) wrote) r

/-- Bytes of G that crews, their copies and transfers or their region's completion write, while capture runs or a take
replays: their pages count in the sum of the region that runs (R382). DESIGN CHOICE for whose writes count (log 49). -/
def State.noted (s : State) (pas : List Nat) : State :=
  { s with dbg := if s.dbg.active || s.dbg.take then { s.dbg with wrote := noteAll s.dbg.wrote pas } else s.dbg }

/-- The bytes of G that a write replaces by others, numbered with it (R100). -/
def replaced (n : Nat) (g : Memory) (ws : List (Nat × Byte)) : List (Nat × Nat × Byte) :=
  ws.filterMap (fun q => if Memory.read g q.1 = q.2 then none else some (n, q.1, Memory.read g q.1))

/-- A write of G by any agent: Paused paths that watch the bytes wake, WAITC re-reads (R47, R199, R233). -/
def State.gWrite (s : State) (ws : List (Nat × Byte)) : State :=
  if ws.isEmpty then s
  else
    let pas := ws.map (fun q => q.1)
    let t : State := { s with g := ws.foldl (fun m q => Memory.write m q.1 q.2) s.g,
                              past := replaced s.writes s.g ws ++ s.past, writes := s.writes + 1 }
    ((t.wakeOn none pas).waitcOn pas).postWaitc

/-- Consecutive bytes of G. -/
def State.gWriteAt (s : State) (pa : Nat) (b : List Byte) : State :=
  s.gWrite (b.zipIdx.map (fun q => (pa + q.2, q.1)))

/-! ### Images -/

/-- plain_store (R199). -/
def State.imgWrite (s : State) (core : Nat) (ws : List (Nat × Byte)) : State :=
  if ws.isEmpty then s
  else
    (s.updCore core (fun c =>
      { c with img := ws.foldl (fun m q => Memory.write m q.1 q.2) c.img,
               dirty := ws.foldl (fun d q => insertNat q.1 d) c.dirty })).wakeOn (some core) (ws.map (fun q => q.1))

/-- publish(C) (R199). -/
def State.publish (s : State) (core : Nat) : State :=
  let c := s.core core
  ((s.updCore core (fun d => { d with dirty := [] })).noted c.dirty).gWrite (c.dirty.map (fun a => (a, Memory.read c.img a)))

/-- refresh(C) (R199): the dirty bytes keep the image's values; a fetch may no longer return older code (R100). -/
def State.refresh (s : State) (core : Nat) : State :=
  s.updCore core (fun c => { c with img := Memory.copyFrom s.g c.img c.dirty, fetched := s.writes })

/-- A phase boundary of one core that publishes and refreshes (R201). -/
def State.boundary (s : State) (core : Nat) : State := (s.publish core).refresh core

/-- Every core publishes, and then every core refreshes (R374). -/
def State.boundaryAll (s : State) : State :=
  let cs := List.range Config.cores
  cs.foldl (fun t c => t.refresh c) (cs.foldl (fun t c => t.publish c) s)

/-! ### Bytes by location -/

/-- The byte of a scratch bank of a core's cluster (R193). -/
def State.bankByte (s : State) (core b off : Nat) : Byte :=
  Memory.read ((s.cluster (clusterOf core)).banks.getD b Bank.reset).bytes off

/-- Read a byte: from G or from the core's image, from its bank, or zero from a wake register (R193, R199, R371). -/
def State.readLoc (s : State) (core : Nat) (wide : Bool) : Loc → Byte
  | .mem pa => if wide then Memory.read s.g pa else Memory.read (s.core core).img pa
  | .bank b off => s.bankByte core b off
  | .wake _ _ => 0

/-- The memory bytes among located bytes. -/
def memPart (ws : List (Loc × Byte)) : List (Nat × Byte) :=
  ws.filterMap (fun q => match q.1 with | .mem pa => some (pa, q.2) | _ => none)
/-- The bank bytes among located bytes. -/
def bankPart (ws : List (Loc × Byte)) : List (Nat × Nat × Byte) :=
  ws.filterMap (fun q => match q.1 with | .bank b off => some (b, off, q.2) | _ => none)
/-- The wake registers among locations. -/
def wakePart (ls : List Loc) : List (Nat × Nat) :=
  (ls.filterMap (fun l => match l with | .wake k q => some (k, q) | _ => none)).dedup

/-- Write bytes of scratch banks (R193). -/
def State.bankWrite (s : State) (core : Nat) (ws : List (Nat × Nat × Byte)) : State :=
  if ws.isEmpty then s
  else
    let t := s.updCluster (clusterOf core) (fun c =>
      { c with banks := ws.foldl (fun bs q =>
          let b := bs.getD q.1 Bank.reset
          setAt bs q.1 { b with bytes := Memory.write b.bytes q.2.1 q.2.2 }) c.banks })
    (t.waitcBank (clusterOf core)).postWaitc

/-- An access of a wake register that is no wake store sets the queue's wake-error flag (R21, R371). The flag of another
package's queue is outside this package. -/
def State.wakeErrors (s : State) (ls : List Loc) : State :=
  (wakePart ls).foldl (fun t q => if q.1 = t.pkgId.toNat then t.updQueue q.2 (fun x => { x with werr := true }) else t) s

/-- Plain stores of located bytes (R193, R199); bytes of a wake register are discarded (R371). -/
def State.plainStore (s : State) (core : Nat) (ws : List (Loc × Byte)) : State :=
  ((s.imgWrite core (memPart ws)).bankWrite core (bankPart ws)).wakeErrors (ws.map (fun q => q.1))

/-- Plain loads of located bytes (R193, R199, R371). -/
def State.plainLoad (s : State) (core : Nat) (ls : List Loc) : List Byte := ls.map (s.readLoc core false)

/-- Writes by an agent other than a core, performed on G (R199, R211). -/
def State.directStore (s : State) (core : Nat) (ws : List (Loc × Byte)) : State :=
  (s.gWrite (memPart ws)).bankWrite core (bankPart ws)

/-- The bytes of memory among locations. -/
def memLocs (ls : List Loc) : List Nat := ls.filterMap (fun l => match l with | .mem pa => some pa | _ => none)

/-- What an access of an agent other than a core to located bytes leaves behind besides its values: row lines serve the sectors
(R196), and a wake register sets its WERR (R371). -/
def State.agentTouch (s : State) (ls : List Loc) : State := (s.servedRows (memLocs ls)).wakeErrors ls

/-- The same for what crews issue: their own wide accesses, their copies and their transfers (R382). -/
def State.crewStore (s : State) (core : Nat) (ws : List (Loc × Byte)) : State :=
  (s.noted ((memPart ws).map (fun q => q.1))).directStore core ws

/-! ### Wake stores -/

/-- A wake store by a crew: a release at system scope, then the value travels to the queue's owner (R21, R23, R371). -/
def State.wakeBy (s : State) (core : Nat) (pkg q : Nat) (value : Word) : State :=
  let t := s.publish core
  if pkg = t.pkgId.toNat then t.post (.wakeStore q 8 true value)
  else t.send (BitVec.ofNat 10 pkg) true false (.wake q value)

/-! ### Synchronising accesses (R204) -/

/-- A wide scope (R198). -/
def wideScope (scope : BitVec 3) : Bool := decide (2 ≤ scope.toNat)
/-- Is an order an acquire, a release (R112)? -/
def isAcquire (ord : BitVec 2) : Bool := ord == 1 || ord == 3
def isRelease (ord : BitVec 2) : Bool := ord == 2 || ord == 3

/-- Take the dirty bytes of a set from the image to G (R204). -/
def State.syncOut (s : State) (core : Nat) (pas : List Nat) : State :=
  let c := s.core core
  let ds := pas.filter (fun a => c.dirty.contains a)
  ((s.updCore core (fun d => { d with dirty := d.dirty.filter (fun a => !ds.contains a) })).noted ds).gWrite
    (ds.map (fun a => (a, Memory.read c.img a)))

/-- Take a set of bytes from G into the image (R204). -/
def State.syncIn (s : State) (core : Nat) (pas : List Nat) : State :=
  s.updCore core (fun c => { c with img := Memory.copyFrom c.img s.g pas })

/-- One synchronising access (R204) to located bytes: op maps the old value to the new one, if it writes. The old value
is returned. -/
def State.sync (s : State) (core : Nat) (wide rel acq : Bool) (ls : List Loc) (op : Nat → Option Nat) : State × Nat :=
  let pas := memLocs ls
  let s1 := if wide && rel then s.publish core else s
  let s2 := if wide then s1.syncOut core pas else s1
  let old := ofBytes (ls.map (s2.readLoc core wide))
  let s3 := match op old with
    | none => s2
    | some x =>
      let ws := ls.zip (toBytes ls.length x)
      if wide then s2.crewStore core ws else s2.plainStore core ws
  let s4 := if wide then s3.syncIn core pas else s3
  (if wide && acq then s4.refresh core else s4, old)

end Sys2Proof.Machine
end

