-- ==== Sys2Proof/Machine/Events.lean ====
section
/-! DEFINITION. Fault records and the host event queue (R355, R368, R369), and the trap code word (R350). -/

namespace Sys2Proof.Machine

/-- TRAPC (R350). -/
def trapCode (t : Trap) (sel : PathSel) : Word :=
  BitVec.ofNat 64 (t.code * 2 ^ 42 + t.word % 16 * 2 ^ 20 + selCode sel * 2 ^ 18 + t.cause % 256 * 2 ^ 8 + t.cls % 256)

/-- TRAPPC of a resume point (R352). -/
def trapPc (word : Nat) (h : Word) : Word := BitVec.ofNat 64 (word * 2 ^ 60) ||| (h &&& 0x01FFFFFFFFFFFFF8)

/-- The eight words of a fault record with an event type (R355). -/
def FaultRec.words (r : FaultRec) (ty : Nat) : List Nat :=
  [r.slate.toNat, r.trapc.toNat, r.trapv.toNat, r.trappc.toNat, r.word.toNat, r.rcb.toNat,
   r.core * 2 ^ 48 + r.slot * 2 ^ 40 + r.batch * 2 ^ 32, ty]

/-- The eight words of a Snuffer record with an event type (R52, R369). -/
def BarrierRec.words (r : BarrierRec) (ty : Nat) : List Nat :=
  [r.slate.toNat, r.core * 2 ^ 48 + r.barrier * 2 ^ 40 + r.cause * 2 ^ 32 + r.expect * 2 ^ 16 + r.arrived,
   r.waiting.toNat + r.exited.toNat * 2 ^ 32, r.gen, 0, 0, 0, ty]

/-- 64-bit words as bytes (R3). -/
def wordBytes (l : List Nat) : List Byte := l.flatMap (fun x => toBytes 8 x)

/-- Is an event dropped (R368)? -/
def EventQ.drops (q : EventQ) : Bool := !q.en || decide ((q.tail - q.head).toNat = 2 ^ q.log2)

/-- Post an event of eight words (R368): dropped with OVF, or written to the ring, TAIL advanced and MSI-X raised. -/
def State.postEvent (s : State) (ws : List Nat) : State :=
  if s.events.drops then { s with events := { s.events with ovf := s.events.ovf + 1 } }
  else
    let t := s.gWriteAt (s.events.base.toNat + 64 * (s.events.tail.toNat % 2 ^ s.events.log2)) (wordBytes ws)
    { t with events := { t.events with tail := t.events.tail + 1, msix := t.events.msix + 1 } }

/-- Post an event whose words are given from offset 0 on, with its TYPE at 0x38 (R369). -/
def State.postWords (s : State) (ws : List Nat) (ty : Nat) : State :=
  s.postEvent ((ws ++ List.replicate 7 0).take 7 ++ [ty])

/-- A queue halts (R373): ERR is set, RD stays, and a QUEUE_HALT event is posted. -/
def State.halt (s : State) (k err : Nat) : State :=
  (s.updQueue k (fun q => { q with halt := true, err := err })).postWords [s.slate.toNat, k, err] 5

/-- Number of a batch by its serial identity: the first SEAL gives 0, and numbers run from 0 to 126 (R212). -/
def batchNo (serial : Nat) : Nat := serial % 127

/-- SLOT of a record (R355). -/
def Crew.slotNo (c : Crew) : Nat := c.quad * 8 + c.slot

/-- The record of a trap of a path (R355), with SLATE at its detection. -/
def Crew.trapRecord (c : Crew) (sel : PathSel) (t : Trap) (trappc : Word) : FaultRec :=
  { slate := t.slate, trapc := trapCode t sel, trapv := t.val, trappc := trappc, word := t.inst,
    rcb := Config.rcbAddress c.region, core := c.core, slot := c.slotNo, batch := (t.batch.map batchNo).getD 0xFF }

end Sys2Proof.Machine
end

