-- ==== Sys2Proof/Machine/Paths.lean ====
section
/-! DEFINITION. Clause boundaries, joins, merges and the ends of sides (R39, R40, R46, R136, R143, R144, R146). -/

namespace Sys2Proof.Machine

/-- N, the next clause in sequence after the clause at h (R136). -/
def nextSeq (h hdr : Word) : Word := h + BitVec.ofNat 64 (8 * (hdrCount hdr + 2))

/-- A path that stands at a clause boundary with a program counter (R351). -/
def Path.atClause (p : Path) (pc : Word) : Path :=
  { p with side := { p.side with pc := pc }, hdr := 0, words := [], idx := 0, inside := false, gather := 0,
           wait := .none, starved := none, cont := none, resolved := none }

/-! ### Resumable instructions that a pre-emption stopped (R56, R58) -/

/-- Where a path stands (R351). -/
def Path.spot (p : Path) : Spot :=
  { side := p.side, hdr := p.hdr, words := p.words, idx := p.idx, inside := p.inside, gather := p.gather, wait := p.wait,
    resolved := p.resolved }

/-- A path at a place. -/
def Path.goTo (p : Path) (q : Spot) : Path :=
  { p with side := q.side, hdr := q.hdr, words := q.words, idx := q.idx, inside := q.inside, gather := q.gather,
           wait := q.wait, resolved := q.resolved }

/-- A path at a recorded instruction, with the lanes it had that are still live. -/
def Path.goBack (p : Path) (live : Mask) (q : Spot) : Path :=
  p.goTo { q with side := { q.side with exm := q.side.exm &&& live }, wait := .none }

/-- The first recorded instruction is issued again, ahead of where the path stands (R58). -/
def Path.reissue (p : Path) (live : Mask) : Path :=
  match p.recs with
  | [] => p
  | q :: rest => { p.goBack live q with recs := rest, cont := some p.spot }

/-- After an instruction that was issued again: the next recorded one, or the place where the path went on. -/
def Path.reissued (p : Path) (live : Mask) (c : Spot) : Path :=
  match p.recs with
  | [] => { p.goTo c with cont := none }
  | q :: rest => { p.goBack live q with recs := rest }

/-- Does a side belong to a divergence? -/
def Side.inDiv (e : Side) (d : Nat) : Bool := e.frames.any (fun f => f.div == d)
/-- The divergence a side waits at, when it has reached its join. -/
def Side.waitsAt (e : Side) (d : Nat) : Bool :=
  e.reached && (match e.frames with | f :: _ => f.div == d | [] => false)

/-- Among sides that have not reached their joins, the one with the largest key. -/
def pickSide (key : Side → Nat) : List Side → Option Side
  | [] => none
  | e :: r =>
    match pickSide key r with
    | none => if e.reached then none else some e
    | some b => if !e.reached && decide (key b < key e) then some e else some b

/-- The most recently pushed entry that has not reached its JOIN (R40). -/
def newest (l : List Side) : Option Side := pickSide (fun e => e.pushed) l
/-- The entry that has waited longest without reaching its JOIN (R46): the least stamp. -/
def longestWaiting (top : Nat) (l : List Side) : Option Side := pickSide (fun e => top - e.waited) l

/-- Remove one entry of a stack, named by its stamp. -/
def dropEntry (e : Side) (l : List Side) : List Side := l.filter (fun x => x.pushed != e.pushed)

/-- Resume an entry in place of the running side. -/
def Path.resume (p : Path) (e : Side) (stack : List Side) : Path :=
  { p with side := { e with reached := false }, stack := stack }.atClause e.pc

/-- The side that the sides of a divergence merge into (R40, R185): every live member is active again; it belongs to
the enclosing divergence. DEDUCED (log 14): a lane inactive when the enclosing side split stays inactive. -/
def mergedSide (live : Mask) (f : Frame) (rest : List Frame) (pc : Word) (sides : List Side) : Side :=
  { exm := sides.foldl (fun m e => m ||| e.members) 0 &&& live, members := f.outer &&& live, pc := pc,
    frames := rest, reached := false, pushed := 0, waited := 0 }

/-- What a clause boundary of a path leads to: the path goes on or waits, or it has reached the JOIN of the split. -/
inductive Edge where
  | on (p : Path)
  | peerJoin (p : Path)
  deriving DecidableEq, Repr

/-- The comparison of R144 at a clause boundary and what follows from it under R40, at most fuel times over. top is a
stamp above those in use. -/
def Path.settle (live : Mask) (top : Nat) : Nat → Path → Edge
  | 0, p => .on p
  | fuel + 1, p =>
    match p.side.frames with
    | [] => .on p
    | [f] => if p.side.pc = f.join then .peerJoin p else .on p
    | f :: rest =>
      if p.side.pc ≠ f.join then .on p
      else
        let mine := p.stack.filter (fun e => e.inDiv f.div)
        if mine.all (fun e => e.waitsAt f.div) then
          Path.settle live top fuel
            { p with side := mergedSide live f rest p.side.pc (p.side :: mine),
                     stack := p.stack.filter (fun e => !e.inDiv f.div) }
        else
          match newest p.stack with
          | none => .on p
          | some e =>
            Path.settle live (top + 1) fuel
              (p.resume e ({ p.side with reached := true, pushed := top } :: dropEntry e p.stack))

/-- Steps that settling may take: at most 128 entries park or merge (R41). -/
def settleFuel : Nat := 600

/-- The single path that two peers merge into, or that one peer becomes when the other's lanes have all exited (R40).
Its scoreboard is the union; no value that a peer's write replaced can be read after the merge (R63, R165). The merged path
has normal priority, whatever PAUSE lowered before. DESIGN CHOICE (log 87). Where one of the peers is the handler path, the merged
path is (R354). DESIGN CHOICE (log 147). -/
def Crew.mergePeers (c : Crew) (pc : Word) (ps : List Path) : Crew :=
  { c with
    paths := .one
      { side := { exm := ps.foldl (fun m p => m ||| p.side.members) 0 &&& c.live, members := c.live, pc := pc,
                  frames := [], reached := false, pushed := 0, waited := 0 },
        stack := [], hdr := 0, words := [], idx := 0, inside := false, wait := .none,
        flights := ps.flatMap (fun p => p.flights.map (fun f => { f with olds := [] })),
        lowUntil := none, starved := none, gather := 0, age := 0,
        recs := ps.flatMap (fun p => p.recs), cont := none, kept := none },
    handler := c.handler.map (fun _ => PathSel.single) }

/-- Merge the peers when both wait at the JOIN, or one does and the other is gone (R40). -/
def Crew.tryMerge (c : Crew) : Crew :=
  match c.paths with
  | .one _ => c
  | .two (some a) (some b) =>
    if a.wait = .atJoin ∧ b.wait = .atJoin then c.mergePeers a.side.pc [a, b] else c
  | .two (some a) none => if a.wait = .atJoin then c.mergePeers a.side.pc [a] else c
  | .two none (some b) => if b.wait = .atJoin then c.mergePeers b.side.pc [b] else c
  | .two none none => c

/-- A clause boundary of a path whose program counter stands (R144). -/
def Crew.atBoundary (c : Crew) (sel : PathSel) (top : Nat) : Crew :=
  match c.path? sel with
  | none => c
  | some p =>
    match p.settle c.live top settleFuel with
    | .on q => c.updPath sel (fun _ => q)
    | .peerJoin q => (c.updPath sel (fun _ => { q with wait := .atJoin })).tryMerge

/-- The path leaves its clause for next (R136), and the boundary is judged. -/
def Crew.endClause (c : Crew) (sel : PathSel) (next : Word) (top : Nat) : Crew :=
  (c.updPath sel (fun p => p.atClause next)).atBoundary sel top

/-- Stamps that one boundary may use. -/
def stampStride : Nat := 1024

/-- The path of a reference leaves its clause for next. -/
def State.endClause (s : State) (r : PathRef) (next : Word) : State :=
  ({ s with stamp := s.stamp + stampStride }).updCrew r.crew (fun c => c.endClause r.sel next s.stamp)

/-- N of the clause in which a path stands. -/
def Path.nextClause (p : Path) : Word := nextSeq p.side.pc p.hdr

/-- The live lanes of a path's crew. -/
def State.liveLanes (s : State) (r : PathRef) : Mask :=
  match s.crew? r.crew with
  | some c => c.live
  | none => 0

/-- The path goes on after word idx: to the next word of its clause, or past the clause (R98, R99); after an instruction
that was issued again, to where it stood (R58). -/
def State.advance (s : State) (r : PathRef) : State :=
  match s.path? r with
  | none => s
  | some p =>
    match p.cont with
    | some c => (s.updPath r (fun q => q.reissued (s.liveLanes r) c)).updCrew r.crew Crew.tryMerge
    | none =>
      if p.idx < hdrCount p.hdr then
        s.updPath r (fun q => { q with idx := q.idx + 1, wait := .none, gather := 0, resolved := none })
      else s.endClause r p.nextClause

/-- A resumable instruction as it is recorded where its path stands: it goes on under the views under which it has resolved its
registers, those of its crew where it has only begun (R160). -/
def Path.recorded (p : Path) (v : Views) : Spot := { p.spot with resolved := some (p.resolved.getD v) }

/-- The views of a path's crew. -/
def State.crewViews (s : State) (r : PathRef) : Views :=
  match s.crew? r.crew with
  | some c => c.views
  | none => { v := 0, w := 0, t := 0, a := 0, d := 0 }

/-- The path goes on past a resumable instruction that a pre-emption has stopped, which is recorded where it stands
(R56, R58). -/
def State.record (s : State) (r : PathRef) : State :=
  match (s.path? r).bind (fun p => p.cont) with
  | some c =>
    (s.updPath r (fun p => { p.goTo c with recs := p.recorded (s.crewViews r) :: p.recs, cont := none })).updCrew r.crew
      Crew.tryMerge
  | none => (s.updPath r (fun p => { p with recs := p.recorded (s.crewViews r) :: p.recs })).advance r

/-- Yield (R46): the running side is pushed, and the entry that has waited longest without reaching its JOIN resumes. -/
def Path.yield (p : Path) (top : Nat) : Option Path :=
  (longestWaiting top p.stack).map (fun e =>
    p.resume e ({ p.side with reached := false, pushed := top, waited := top } :: dropEntry e p.stack))

/-! ### The end of a side (R146) -/

/-- What is left when the running side of a path has no lane: another side resumes, or the path is gone. The second part
is the live mask. -/
def Path.dropSide (top : Nat) : List Frame → Mask → Path → Option Path × Mask
  | [], _, _ => (none, 0)
  | [_], live, _ => (none, live)
  | f :: rest, live, p =>
    let mine := p.stack.filter (fun e => e.inDiv f.div)
    if mine.isEmpty then Path.dropSide top rest (live &&& ~~~f.outer) p
    else if mine.all (fun e => e.waitsAt f.div) then
      (some ({ p with side := mergedSide live f rest f.join mine,
                      stack := p.stack.filter (fun e => !e.inDiv f.div) }.atClause f.join), live)
    else
      match newest p.stack with
      | none => (none, live)
      | some e => (some (p.resume e (dropEntry e p.stack)), live)

/-- Take a peer whose lanes have all exited out of the crew; what it has in flight still completes with the crew. When
both are gone, lanes that neither peer held end too (log 15). -/
def Crew.dropPeer (c : Crew) (sel : PathSel) (fl : List Flight) : Crew :=
  let keep (p : Path) : Path := { p with flights := p.flights ++ fl }
  match c.paths, sel with
  | .two _ (some b), .taken => { c with paths := .two none (some (keep b)) }.tryMerge
  | .two (some a) _, .notTaken => { c with paths := .two (some (keep a)) none }.tryMerge
  | .two _ _, _ => ({ c with live := 0 }.mergePeers 0 []).updPath .single (fun p => { p with flights := fl })
  | .one _, _ => c

/-- The end of a peer or of the crew's one path (R13, R146); with the handler path the handler bit goes (R354). -/
def Crew.pathGone (c : Crew) (sel : PathSel) : Crew :=
  let c := if c.handler = some sel then { c with handler := none } else c
  match c.paths, c.path? sel with
  | .one p, _ =>
    { c with live := 0, state := .ending,
             paths := .one ({ p with side := { p.side with exm := 0, members := 0 } }.atClause p.side.pc) }
  | _, none => c
  | .two _ _, some p =>
    let d := c.dropPeer sel p.flights
    if d.live = 0 then { d with state := .ending } else d

/-- EXIT of lanes x of a path (R146): the lanes end; a side left without active lanes ends whole; the path goes on at
next when lanes are left. -/
def Crew.exitLanes (c : Crew) (sel : PathSel) (x : Mask) (next : Word) (top : Nat) : Crew :=
  match c.path? sel with
  | none => c
  | some p =>
    let live := c.live &&& ~~~x
    if p.side.exm &&& ~~~x ≠ 0 then
      ({ c with live := live }.updPath sel (fun p =>
        { p with side := { p.side with exm := p.side.exm &&& ~~~x, members := p.side.members &&& ~~~x } })).endClause
        sel next top
    else
      let live := live &&& ~~~p.side.members
      match Path.dropSide top p.side.frames live p with
      | (some q, l) => ({ c with live := l }.updPath sel (fun _ => q)).atBoundary sel (top + 1)
      | (none, l) => { c with live := l }.pathGone sel

/-! ### Splits (R143) -/

/-- One of the two peers of a split: it inherits what the single path has in flight, and its lowered priority. DESIGN CHOICE
for the priority (log 87). -/
def peerOf (p : Path) (f : Frame) (lanesOf : Mask) (pc : Word) (fl : List Flight) : Path :=
  { side := { exm := lanesOf, members := lanesOf, pc := pc, frames := [f], reached := false, pushed := 0, waited := 0 },
    stack := [], hdr := 0, words := [], idx := 0, inside := false, flights := fl, wait := .none,
    lowUntil := p.lowUntil, starved := none, gather := 0, age := 0, recs := [], cont := none, kept := none }

/-- The single-path crew splits into two peers (R39, R143). Each peer waits for what the single path issued before the
split, as program order asks (R72). -/
def Crew.split (c : Crew) (p : Path) (f : Frame) (t n : Mask) (tgt next : Word) (top : Nat) : Crew :=
  let d : Crew :=
    { c with paths := .two (some { peerOf p f t tgt p.flights with recs := p.recs }) (some (peerOf p f n next p.flights)),
             handler := c.handler.map (fun _ => PathSel.taken) }
  (d.atBoundary .taken top).atBoundary .notTaken (top + 512)

/-- A nested divergence (R143): the not-taken lanes are pushed, the taken lanes run on at tgt. -/
def Crew.nest (c : Crew) (sel : PathSel) (f : Frame) (t n : Mask) (tgt next : Word) (top : Nat) : Crew :=
  (c.updPath sel (fun p =>
    { p with
      side := { p.side with exm := t, members := t, frames := f :: p.side.frames },
      stack := { exm := n, members := n, pc := next, frames := f :: p.side.frames, reached := false, pushed := top,
                 waited := top } :: p.stack })).endClause sel tgt (top + 1)

end Sys2Proof.Machine
end

