-- ==== Sys2Proof/Machine/Ops.lean ====
section
/-! DEFINITION. Taking a trap and returning from one (R349 to R354, R359), and handing a word to its engine: the dynamic
checks of R107, the scoreboard of R72, and how each outcome of a word moves its path. -/

namespace Sys2Proof.Machine

/-! ### Regions that a trap acts on (R20, R353) -/

/-- Is region id the region anc or a descendant of it? -/
def State.isUnder (s : State) (anc : Nat) : Nat → Nat → Bool
  | 0, id => id == anc
  | fuel + 1, id => id == anc ||
    (match (s.region? id).bind (fun g => g.parent) with
     | some p => s.isUnder anc fuel p
     | none => false)

/-- The root of a region's tree. -/
def State.rootOf (s : State) : Nat → Nat → Nat
  | 0, id => id
  | fuel + 1, id =>
    match (s.region? id).bind (fun g => g.parent) with
    | some p => s.rootOf fuel p
    | none => id

/-- The fault domain of a region (R353). -/
def State.domain (s : State) (g : Region) : List Nat :=
  let n := s.regions.length
  if g.rcb.fdom = 0 then [g.id]
  else (s.regions.filter (fun x => x.rcb.fdom == g.rcb.fdom && s.rootOf n x.id == s.rootOf n g.id)).map (fun x => x.id)

/-- Regions of a list with all their descendants. -/
def State.withDescendants (s : State) (ids : List Nat) : List Nat :=
  (s.regions.filter (fun x => ids.any (fun a => s.isUnder a s.regions.length x.id))).map (fun x => x.id)

/-- Termination of regions with their descendants begins (R20, R27): each carries the ERR given. -/
def State.terminate (s : State) (ids : List Nat) (err : Nat) : State :=
  let all := s.withDescendants ids
  { s with regions := s.regions.map (fun g =>
      if all.contains g.id && (g.state == .running || g.state == .suspended) && g.ending.isNone then
        { g with state := .terminating, err := err, endCode := 2 } else g) }

/-- Suspension of regions (R20, R353): their resident crews are to be saved. -/
def State.suspend (s : State) (ids : List Nat) : State :=
  { s with
    regions := s.regions.map (fun g =>
      if ids.contains g.id && g.state == .running && g.ending.isNone then { g with state := .suspended } else g),
    crews := s.crews.map (fun c =>
      if ids.contains c.region && c.state == .resident then { c with state := .saving .suspend } else c) }

/-! ### Taking a trap (R349 to R354) -/

/-- The resume point of a trap as word index and clause address (R349, R352). -/
def Path.resumePoint (p : Path) : Resume → Nat × Word
  | .word => (p.idx, p.side.pc)
  | .clause => (0, p.side.pc)
  | .after => if p.idx < hdrCount p.hdr then (p.idx + 1, p.side.pc) else (0, p.nextClause)

/-- Leave a path at the resume point of a trap that stops it (R351, R353). A gather stopped at its word keeps its completed
mask (R351). -/
def State.placeAt (s : State) (r : PathRef) (q : Resume) : State :=
  match s.path? r with
  | none => s
  | some p =>
    match q with
    | .word => s.updPath r (fun x => { x with wait := .stopped })
    | .clause => s.updPath r (fun x => { x with wait := .none })
    | .after =>
      if p.idx < hdrCount p.hdr then s.updPath r (fun x => { x with idx := x.idx + 1, wait := .stopped, gather := 0, resolved := none })
      else s.endClause r p.nextClause

/-- A double trap (R354): the region's domain is terminated with ERR 14 and the FAULT event carries the second trap;
the crew's trap registers keep their values. -/
def State.doubleTrap (s : State) (r : PathRef) (c : Crew) (g : Region) (t : Trap) : State :=
  let t2 : Trap := { t with cls := 14, cause := t.cls + (if t.batch.isSome then 128 else 0), code := 0 }
  ((s.updPath r (fun x => { x with wait := .stopped })).postEvent ((c.trapRecord r.sel t2 0).words 1)).terminate
    (s.domain g) 14

/-- The trapping path goes to the clause at HANDLER with its EXM unchanged, and the handler bit is set (R353, R354). q is
the resume point, for which the completed mask of a gather is kept (R351). -/
def Crew.enterHandler (c : Crew) (sel : PathSel) (h : Word) (q : Nat × Word) : Crew :=
  { c.updPath sel (fun p => { p.atClause h with kept := if p.gather = 0 then none else some (q.1, q.2, p.gather) }) with
    handler := some sel }

/-- The trap registers and the last record that a delivered trap leaves (R352, R358). -/
def Crew.trapRegs (c : Crew) (q : FaultRec) : Crew :=
  { c with sys := { c.sys with trapc := q.trapc, trapv := q.trapv, trappc := q.trappc }, lastRec := some q }

/-- Batches leave the outstanding set; their copies are forgotten (R212). -/
def State.cover (s : State) (crew : Nat) (bs : List Nat) : State :=
  { s.updCrew crew (fun c =>
      { c with batches := { c.batches with sealedB := c.batches.sealedB.filter (fun b => !bs.contains b.serial) } }) with
    copies := s.copies.filter (fun c => !(c.crew == crew && bs.contains c.serial)) }

/-- The record of a batch becomes q (R215, R355). -/
def Crew.batchRec (c : Crew) (serial : Nat) (q : FaultRec) : Crew :=
  { c with batches := { c.batches with recs := put serial q c.batches.recs } }

/-- A copy batch whose fault is delivered with the record rc: it is covered (R349), and its own record has the position of
the delivery from now on (R355). -/
def State.batchDelivered (s : State) (crew : Nat) (t : Trap) (rc : FaultRec) : State :=
  match t.batch with
  | none => s
  | some b =>
    (s.cover crew [b]).updCrew crew (fun c =>
      match look b c.batches.recs with
      | some q => c.batchRec b { q with trapc := rc.trapc, trappc := rc.trappc }
      | none => c)

/-- Deliver a trap under the region's fault policy (R352, R353). Under FPOL 0 and 1 it is the region's first until it runs
again. -/
def State.deliver (s : State) (r : PathRef) (c : Crew) (g : Region) (p : Path) (t : Trap) : State :=
  let q := p.resumePoint t.resume
  let rc := c.trapRecord r.sel t (trapPc q.1 q.2)
  let s1 := (s.batchDelivered r.crew t rc).updCrew r.crew (fun d => d.trapRegs rc)
  if g.rcb.fpol = 2 then s1.updCrew r.crew (fun d => d.enterHandler r.sel g.rcb.handler q)
  else
    let s2 := (s1.placeAt r t.resume).postEvent (rc.words (if g.rcb.fpol = 1 then 2 else 1))
    let s2 := match t.bar with | some b => s2.postEvent (b.words 8) | none => s2
    let s3 := s2.updRegion g.id (fun x => { x with trapped := true })
    if g.rcb.fpol = 1 then s3.suspend (s.domain g) else s3.terminate (s.domain g) t.cls

/-- Is a trap of the region delivered (R353)? A region that runs takes it, and so does one that only the host or another
region of its domain has suspended: a trap after the region's own first one stops its path and no more. DEDUCED (log 88). -/
def Region.takesTraps (g : Region) : Bool := (g.state == .running || g.state == .suspended) && !g.trapped

/-- Taking a trap: the one operation for every trap of a path (R349 to R354). A region that takes none stops the path
at its resume point; the handler path traps doubly; the other peer's trap is held. -/
def State.takeTrap (s : State) (r : PathRef) (t : Trap) : State :=
  match s.crew? r.crew with
  | none => s
  | some c =>
    match s.region? c.region, c.path? r.sel with
    | some g, some p =>
      if !g.takesTraps then s.placeAt r t.resume
      else
        match c.handler with
        | some h => if h = r.sel then s.doubleTrap r c g t else s.updPath r (fun x => { x with wait := .held t, cont := none })
        | none => s.deliver r c g p t
    | _, _ => s

/-- A trap before issue: the clause, word 0, is its resume point (R349, R351). That holds for an illegal word too, which
the path stands before with its inside flag clear. DEDUCED (log 89). -/
def clauseTrap (slate : Word) (cls cause : Nat) (val : Word) (word : Nat) (inst : Word) : Trap :=
  { slate := slate, cls := cls, cause := cause, val := val, code := 0, word := word, inst := inst, resume := .clause, batch := none,
    bar := none }

/-- The trap of a fault that a path takes in the end: at its word, or at the clause that it stands before (R349). -/
def Path.faultTrap (p : Path) (slate : Word) (f : MemFault) : Trap :=
  if p.inside then { clauseTrap slate f.cls f.cause f.va p.idx (p.words.getD p.idx 0) with resume := .word }
  else clauseTrap slate f.cls f.cause f.va 0 0

/-- A path takes a fault outside a hand-off: a replayable one stops it, any other traps (R349, R364). -/
def State.pathFault (s : State) (r : PathRef) (f : MemFault) : State :=
  match s.path? r with
  | none => s
  | some p =>
    if f.replayable then s.updPath r (fun x => { x with wait := .fault f s.now })
    else (s.updPath r (fun x => { x with wait := .none })).takeTrap r (p.faultTrap s.slate f)

/-- Deliver a trap held for a peer once the handler bit is clear (R354, R359). -/
def State.deliverHeld (s : State) (id : Nat) : State :=
  match s.crew? id with
  | none => s
  | some c =>
    if c.handler.isSome then s
    else c.allPaths.foldl (fun u q =>
      match q.2.wait with
      | .held t => (u.updPath { crew := id, sel := q.1 } (fun x => { x with wait := .none })).takeTrap
                     { crew := id, sel := q.1 } t
      | _ => u) s

/-! ### Fetching code (R98, R100, R137) -/

/-- The bytes of a list of addresses that G has held since the core's last refresh, newest first, with the writes that
replaced them. -/
def State.pastOf (s : State) (core : Nat) (pas : List Nat) : List (Nat × Nat × Byte) :=
  (s.past.takeWhile (fun e => decide ((s.core core).fetched ≤ e.1))).filter (fun e => pas.contains e.2.1)

/-- A byte of G before write m. -/
def pastByte (l : List (Nat × Nat × Byte)) (m a : Nat) (now : Byte) : Byte :=
  (l.filter (fun e => decide (m ≤ e.1) && e.2.1 == a)).foldl (fun _ e => e.2.2) now

/-- The word a fetch returns (R100): its content in G, or any whole content it has had since the core's last refresh, by a
free choice. -/
def State.codeWord (s : State) (core n : Nat) (pas : List Nat) : Word :=
  let l := s.pastOf core pas
  let ws := (l.map (fun e => e.1)).dedup
  match ws with
  | [] => BitVec.ofNat 64 (ofBytes (pas.map (Memory.read s.g)))
  | _ =>
    match ws[Config.freeChoice s.free / 256 ^ n % (ws.length + 1)]? with
    | none => BitVec.ofNat 64 (ofBytes (pas.map (Memory.read s.g)))
    | some m => BitVec.ofNat 64 (ofBytes (pas.map (fun a => pastByte l m a (Memory.read s.g a))))

/-- Fetch the word at an address; n is its number in the clause (R137). -/
def State.fetchWord (s : State) (core region n va : Nat) : Except MemFault Word :=
  if wakeBase ≤ va + 7 then .error (pageFault 3 va)
  else
    match s.locs core region .fetch false (span va 8) with
    | .error f => .error f
    | .ok ls => .ok (s.codeWord core n (ls.filterMap (fun l => match l with | .mem pa => some pa | _ => none)))

/-- Fetch n words from an address on; the first that cannot be fetched gives the fault (R137). -/
def State.fetchWords (s : State) (core region : Nat) : Nat → Nat → Nat → Except MemFault (List Word)
  | 0, _, _ => .ok []
  | n + 1, i, va =>
    match s.fetchWord core region i va with
    | .error f => .error f
    | .ok w =>
      match s.fetchWords core region n (i + 1) (va + 8) with
      | .error f => .error f
      | .ok ws => .ok (w :: ws)

/-! ### Handing a word to its engine (R107) -/

/-- What a word sees at hand-off: the state, its path, the crew, the crew as this path reads it (R63, R165), and the
code word. own holds the crew's views where the word works under older ones that the other peer is changing (R160); s and
c then hold those the word sees. -/
structure Env where
  s : State
  r : PathRef
  c : Crew
  v : Crew
  p : Path
  w : Word
  own : Option Views
  deriving DecidableEq, Repr

/-- How a word ends: it has its effect; it moves its path to another clause; it traps; an access faults; it waits; it
must be tried again; it has placed its path itself. -/
inductive Res where
  | ok (s : State)
  | jump (s : State) (next : Word)
  | trap (s : State) (t : Trap)
  | mem (s : State) (f : MemFault)
  | wait (s : State) (w : Wait)
  | stall
  | done (s : State)
  deriving DecidableEq, Repr

/-- A trap of the word at hand. -/
def Env.mkTrap (e : Env) (cls cause : Nat) (val : Word) (resume : Resume) : Trap :=
  { slate := e.s.slate, cls := cls, cause := cause, val := val, code := 0, word := e.p.idx, inst := e.w, resume := resume,
    batch := none, bar := none }

/-- The dynamic illegal-instruction trap (R349). -/
def Env.illegal (e : Env) : Trap := e.mkTrap 1 1 e.w .word
/-- The misalignment trap (R349). -/
def Env.misaligned (e : Env) (a : Word) : Trap := e.mkTrap 7 0 a .word
/-- The trap of a memory fault that cannot be replayed (R349). -/
def Env.memTrap (e : Env) (f : MemFault) : Trap := e.mkTrap f.cls f.cause f.va .word

/-- The crew-wide instructions (R43). -/
def crewWide : Instr → Bool
  | .mma _ | .mmat _ | .mmaw _ | .wbld _ | .tld _ | .tst _ | .ald _ | .ast _ | .aclr _ | .ascl _ | .acvt _
  | .tsigTile _ | .tsigAcc _ | .tschk _ | .cpy _ | .cpy2 _ | .cpyt _ | .cpyq _ | .rput _ | .rred _ | .waitsp
  | .bara _ | .barw _ | .bars _ | .stepw => true
  | _ => false

/-- Banks of the vectors a half writes (R74, R118). -/
def Crew.halfBanks (c : Crew) (h : Half) : List Nat :=
  if h.cop = 0 then [] else (c.granulesOf .vec h.cd.toNat).map (fun g => g % 4)

/-- The failing condition of a pair word, if any (R118, R349). DESIGN CHOICE (log 115): where several fail together, the banks are
reported before the granules, and these before the classes. -/
def Crew.pairFault (c : Crew) (o : FieldsP) : Option Nat :=
  if (c.halfBanks o.lo).any (fun b => (c.halfBanks o.hi).contains b) then some 1
  else if 3 < (((halfReads o.lo ++ halfReads o.hi).map (fun n => c.firstGranule .vec n)).dedup).length then some 2
  else if halfCls o.lo = halfCls o.hi ∧ (halfCls o.lo = .special ∨ halfCls o.lo = .conversion) then some 3
  else none

/-- Checks 1 to 3 of R107, in their order. An instruction that is issued again after a restore was checked at its hand-off. -/
def Env.check (e : Env) (i : Instr) : Option Trap :=
  if e.p.cont.isSome then none
  else if (uses i).any (fun u => u.kind.wide && !e.v.mapped u.kind u.num) then some e.illegal
  else
    match (match i with | .pairWord o => e.v.pairFault o | _ => none) with
    | some k => some (e.mkTrap 3 k e.w .word)
    | none =>
      if !crewWide i then none
      else if !e.c.isSingle then some (e.mkTrap 5 1 e.w .word)
      else if e.p.side.exm ≠ e.c.live then some (e.mkTrap 5 2 e.w .word)
      else none

/-- The path in focus, with what its word sees. A resumable instruction that is under way goes on under the views under which it
has resolved its registers (R160). -/
def State.env? (s : State) (i : Instr) : Option Env :=
  match s.focus with
  | none => none
  | some r =>
    match s.crew? r.crew with
    | none => none
    | some c =>
      match c.path? r.sel with
      | none => none
      | some p =>
        let seen := c.seenBy s.free r.sel (uses i)
        let v : Crew := { seen with views := p.resolved.getD seen.views }
        let w := p.words.getD p.idx 0
        if v.views = c.views then some { s := s, r := r, c := c, v := v, p := p, w := w, own := none }
        else
          some { s := s.updCrew r.crew (fun d => { d with views := v.views }), r := r, c := { c with views := v.views },
                 v := v, p := p, w := w, own := some c.views }

/-- What an engine does for a resumable instruction of a path that is under way is done under the views under which it has resolved
its registers (R160). -/
def State.under (s : State) (r : PathRef) (f : State → State) : State :=
  match s.crew? r.crew, (s.path? r).bind (fun p => p.resolved) with
  | some c, some x =>
    (f (s.updCrew r.crew (fun d => { d with views := x }))).updCrew r.crew (fun d => { d with views := c.views })
  | _, _ => f s

/-- The instructions of the matrix range, which the array performs one after another (R239). -/
def matrixWord : Instr → Bool
  | .mma _ | .mmat _ | .mmaw _ | .wbld _ | .tld _ | .tst _ | .ald _ | .ast _ | .aclr _ | .ascl _ | .acvt _
  | .tsigTile _ | .tsigAcc _ | .tschk _ => true
  | _ => false

/-- The words that access memory or a bank, or order the accesses of their path (R149, R202, R208, R211, R228). -/
def ordersMemory : Instr → Bool
  | .ld _ | .st _ | .lda _ | .stl _ | .at _ | .acas _ | .vat _ | .vld _ | .vst _ | .vldb _ | .vldg _ | .vsts _
  | .fence _ | .phase | .fput _ | .fget _ | .bnkcfg _ | .waitc _ | .cpy _ | .cpy2 _ | .cpyt _ | .cpyq _ | .rput _
  | .rget _ | .rred _ | .ratom _ | .rmskRd _ | .rmskArm _ | .dld _ | .dst _ | .mma _ | .mmat _ | .mmaw _ | .wbld _
  | .tld _ | .tst _ | .ald _ | .ast _ | .tschk _ | .spawnr _ | .bara _ | .barw _ | .bars _ | .stepw => true
  | _ => false

/-- Does a word write a view register (R160)? -/
def writesView : Instr → Bool
  | .swr o => decide (0x10 ≤ o.sys.toNat) && decide (o.sys.toNat ≤ 0x14)
  | _ => false

/-- Does a word end lanes (R146)? -/
def endsLanes : Instr → Bool
  | .exit _ => true
  | _ => false

/-- The instruction that stands at a place. -/
def Spot.instr (q : Spot) : Option Instr := (q.words[q.idx]?).bind (fun w => decodeWord (hdrPair q.hdr q.idx) w)

/-- Does a word return from a trap (R359)? -/
def returns : Instr → Bool
  | .eret => true
  | _ => false

/-- The flight of a resumable instruction that a pre-emption stopped (R58): later words depend on it through the
scoreboard, by the registers that it has resolved (R160). -/
def Crew.recFlight (c : Crew) (q : Spot) : List Flight :=
  match q.instr with
  | none => []
  | some i =>
    let d : Crew := { c with views := q.resolved.getD c.views }
    [{ reads := d.readUnits (uses i), writes := d.writeUnits (uses i), olds := [] }]

/-- Does an instruction that a pre-emption stopped hold back a later word of its path, registers apart? Lanes end once what
they issued has completed (R146), and a view is written after every earlier word (R160); a gather keeps its place among the accesses
and fences of its path (R202, R228), a product among these, since it reads its block and fetches its slices, and in the array
(R239, R240, R262). DEDUCED (log 91). -/
def Spot.orders (q : Spot) (i : Instr) : Bool :=
  endsLanes i || writesView i ||
  (match q.instr with
   | some (.vldg _) => ordersMemory i
   | some _ => ordersMemory i || matrixWord i
   | none => false)

/-- Do the other paths of a crew hold back a word that is not theirs? A view is written after a product of the other peer that waits
for slices, whose registers are resolved (R63, R160); and the handler path ends, or returns, after an instruction of a peer whose
trap is held, where that is being issued again (R58, R354). -/
def Crew.peersHold (c : Crew) (i : Instr) : Bool :=
  (writesView i && c.allPaths.any (fun q => q.2.inSlices)) ||
  ((returns i || endsLanes i) &&
    c.allPaths.any (fun q => q.2.cont.any (fun x => match x.wait with | .held _ => true | _ => false)))

/-- Does a recorded instruction hold back a word of a path (R58), or another path? -/
def Crew.recHolds (c : Crew) (p : Path) (i : Instr) : Bool :=
  p.cont.isNone &&
  ((p.recs.flatMap c.recFlight).any (fun f => f.holds (c.readUnits (uses i)) (c.writeUnits (uses i))) ||
   p.recs.any (fun q => q.orders i) || c.peersHold i)

/-- The words of a place in a clause from the n-th on. -/
def Spot.wordsFrom (q : Spot) (n : Nat) : List Instr :=
  if !q.inside then []
  else ((q.words.zipIdx).filter (fun x => decide (n ≤ x.2) && decide (x.2 ≤ hdrCount q.hdr))).filterMap (fun x =>
    decodeWord (hdrPair q.hdr x.2) x.1)

/-- The words of its issued clause that a path hands off after the resumable instruction at which it stands: those after it, or,
where that is issued again, those from where the path went on. -/
def Path.restWords (p : Path) : List Instr :=
  match p.cont with
  | none => p.spot.wordsFrom (p.idx + 1)
  | some c => c.wordsFrom c.idx

/-- May a pre-emption stop the resumable instruction at which a path stands (R56)? The clause that has issued runs to its end first,
and no path is saved between its words (R99): it is stopped where no word of that clause then has to wait for it, also after the
other peer has written a view or returned from a trap. Where one would wait, it completes. DEDUCED (log 91). -/
def Crew.stoppable (c : Crew) (sel : PathSel) (p : Path) : Bool :=
  let q : Path := { p with recs := p.recorded c.views :: p.recs, cont := none }
  p.restWords.all (fun i => !c.recHolds q i && !returns i) &&
  (c.allPaths.filter (fun x => x.1 != sel)).all (fun x =>
    (x.2.spot.wordsFrom x.2.idx ++ x.2.restWords).all (fun i => !writesView i && !returns i))

/-- Is a product of another crew of the core under way in the array (R239)? -/
def Env.arrayBusy (e : Env) : Bool :=
  e.s.crews.any (fun c => c.core == e.c.core && c.id != e.c.id && c.allPaths.any (fun q => q.2.inSlices))

/-- Must the word wait for an earlier one of its path (R72), or for the array (R239)? -/
def Env.blocked (e : Env) (i : Instr) : Bool :=
  e.p.blocked (e.c.readUnits (uses i)) (e.c.writeUnits (uses i)) || e.c.recHolds e.p i || (matrixWord i && e.arrayBusy)

/-- What the scoreboard keeps of a word until it completes (R72); with two peers, the values it replaces (R63). -/
def Env.flight (e : Env) (i : Instr) : Flight :=
  let ws := e.c.writeUnits (uses i)
  let c : Crew := { e.c with views := e.own.getD e.c.views }
  { reads := e.c.readUnits (uses i), writes := ws,
    olds := if e.c.isSingle then [] else ws.map (fun u => (u, c.unitVal u)), matrix := matrixWord i }

/-- May the word raise a flag of FPXF (R66)? -/
def mayRaise : Instr → Bool
  | .vfadd _ | .vfsub _ | .vfmul _ | .vfma _ | .vfmin _ | .vfmax _ | .vfabs _ | .vfneg _ | .vfrnd _ | .vfcmp _
  | .vrcp _ | .vrsq _ | .vsqrt _ | .vexp2 _ | .vlog2 _ | .vsin _ | .vcos _ | .vfcvt _ | .vpack _ | .vunpk _
  | .vcbtEnc _ | .vcbtDec _ | .vqnt _ | .vrdc _ | .vscan _ | .pairWord _ | .acvt _ | .ascl _ | .mma _ | .mmat _ | .mmaw _ | .dset _ | .dpt _ | .dld _ | .dadd _
  | .dsub _ | .dmul _ | .dmax _ | .dmin _ | .daff _ | .dfn _ | .dmix _ | .dcond _ | .dmom _ | .dqnt _ | .dcdf _
  | .vrdcm _ => true
  | _ => false

/-- The units whose values before the other peer's write are gone once the word has been handed off: those it writes, and
FPXF where the word may raise flags, so that it stands wholly after an SWR of FPXF in flight (R164). DESIGN CHOICE
(log 86). -/
def Env.settled (e : Env) (i : Instr) : List SbUnit :=
  (e.flight i).writes ++ (if mayRaise i then [.sysreg 0x21] else [])

/-- The word joins what its path has in flight. -/
def Env.launch (e : Env) (i : Instr) (s : State) : State :=
  s.updCrew e.r.crew (fun c =>
    (c.dropOlds e.r.sel (e.settled i)).updPath e.r.sel (fun p => { p with flights := p.flights ++ [e.flight i] }))

/-- The word is in flight, and its path goes on after it. -/
def Env.finish (e : Env) (i : Instr) (s : State) : State := (e.launch i s).advance e.r

/-- The word is in flight, and its path leaves the clause for next. -/
def Env.leave (e : Env) (i : Instr) (s : State) (next : Word) : State := (e.launch i s).endClause e.r next

/-- The views after a word that worked under older ones: the crew's own, but for those that the word wrote (R160). -/
def Crew.ownViews (c : Crew) (x : Views) (wr : List SbUnit) : Crew :=
  let keep (n : Nat) (mine own : BitVec 32) : BitVec 32 := if wr.contains (.sysreg n) then mine else own
  { c with views := { v := keep 0x10 c.views.v x.v, w := keep 0x11 c.views.w x.w, t := keep 0x12 c.views.t x.t,
                      a := keep 0x13 c.views.a x.a, d := keep 0x14 c.views.d x.d } }

/-- The state after a word, with the crew's own views (R160); wr is what the word has written. -/
def Env.restore (e : Env) (wr : List SbUnit) (s : State) : State :=
  match e.own with
  | none => s
  | some x => s.updCrew e.r.crew (fun c => c.ownViews x wr)

/-- A memory fault of a path: a replayable one stops it at its resume point until firmware resolves it (R364), any other
is a trap. -/
def Env.memFault (e : Env) (s : State) (f : MemFault) : State :=
  if f.replayable then s.updPath e.r (fun p => { p with wait := .fault f s.now })
  else s.takeTrap e.r (e.memTrap f)

/-- Carry out the way a word ends. -/
def Env.conclude (e : Env) (i : Instr) : Res → State
  | .ok s => e.finish i s
  | .jump s next => e.leave i s next
  | .trap s t => s.takeTrap e.r t
  | .mem s f => e.memFault s f
  | .wait s w => s.updPath e.r (fun p => { p with wait := w })
  | .stall => e.s
  | .done s => s

/-- What a word has written when it ends so: nothing when it has not had its effect. -/
def Env.written (e : Env) (i : Instr) : Res → List SbUnit
  | .ok _ => (e.flight i).writes
  | _ => []

/-- Hand a word to its engine: the scoreboard, the dynamic checks, then the word itself. -/
def Env.handOff (e : Env) (i : Instr) (f : Env → Res) : State :=
  if e.blocked i then e.restore [] e.s
  else
    match e.check i with
    | some t => e.restore [] (e.s.takeTrap e.r t)
    | none => e.restore (e.written i (f e)) (e.conclude i (f e))

/-- Run one word of the path in focus. -/
def runWord (i : Instr) (s : State) (f : Env → Res) : Host.Outcome State Fault Refusal :=
  match s.env? i with
  | none => .fault .noPath
  | some e => .next (e.handOff i f)

/-! ### Return from a trap (R359) -/

/-- The completed mask with which a gather at a resume point goes on (R351). -/
def Path.keptAt (p : Path) (h : Word) (i : Nat) : Mask :=
  match p.kept with
  | some (k, pc, m) => if k = i ∧ pc = h then m else 0
  | none => 0

/-- A path resumes inside a clause at word i, with no entry wait, no draw and no static check (R351). -/
def Path.insideAt (p : Path) (h hdr : Word) (ws : List Word) (i : Nat) : Path :=
  { p with side := { p.side with pc := h }, hdr := hdr, words := ws, idx := i, inside := true, gather := p.keptAt h i,
           wait := .none, starved := none, cont := none, kept := none, resolved := none }

/-- A path that stands inside a clause fetches the clause's words; a fault of that fetch is the path's own, at its resume point
(R137, R351, R364). DESIGN CHOICE (log 140). -/
def State.fetchInside (s : State) (r : PathRef) : State :=
  match s.crew? r.crew, s.path? r with
  | some c, some p =>
    match s.fetchWords c.core c.region (hdrCount p.hdr + 1) 1 (p.side.pc.toNat + 8) with
    | .ok ws => s.updPath r (fun q => { q with words := ws })
    | .error f => s.pathFault r f
  | _, _ => s

/-- Resume the handler path at the point held in TRAPPC (R351): with WORD 0 at the clause, above 0 inside it, where it hands off the
clause's words without an issue, or past its last word at the next clause, none of its words being fetched. -/
def State.resumeAt (s : State) (r : PathRef) (h hdr : Word) (i : Nat) : State :=
  if i = 0 then
    (s.endClause r h).updPath r (fun p =>
      { p with gather := if p.side.pc = h ∧ !p.inside then p.keptAt h 0 else 0, kept := none })
  else if hdrCount hdr < i then s.endClause r (nextSeq h hdr)
  else (s.updPath r (fun p => p.insideAt h hdr [] i)).fetchInside r

/-- ERET of the handler path (R359): the bit is cleared, the path resumes, and a trap held for its peer is delivered. A resume address
without a valid header is a double trap, one whose header cannot be fetched among these; a replayable fault of that fetch repeats
the ERET. DEDUCED (log 43). -/
def Env.eret (e : Env) : Res :=
  let h : Word := e.v.sys.trappc &&& 0x01FFFFFFFFFFFFF8
  let i := bits e.v.sys.trappc.toNat 63 60
  let fail (t : Trap) : Res :=
    match e.s.region? e.c.region with
    | some g => .done (e.s.doubleTrap e.r e.c g t)
    | none => .stall
  let clear : State := e.s.updCrew e.r.crew (fun c => { c with handler := none })
  match e.s.fetchWord e.c.core e.c.region 0 h.toNat with
  | .error f => if f.replayable then .mem e.s f else fail (clauseTrap e.s.slate f.cls f.cause f.va 0 0)
  | .ok hdr =>
    match headerFault hdr with
    | some k => fail (clauseTrap e.s.slate 2 k hdr 0 hdr)
    | none => .done ((clear.resumeAt e.r h hdr i).deliverHeld e.r.crew)

end Sys2Proof.Machine
end

