-- ==== Sys2Proof/Machine/SysReg.lean ====
section
/-! DEFINITION. The read-only system registers (R64), the token registers (R339, R340), and BOOTSTAT (R379). -/

namespace Sys2Proof.Machine

/-- Interval number of a tick (R323). -/
def intervalOf (tick : Nat) : Nat := tick / 1024

/-- TKRATE (R339). -/
def State.tkRate (s : State) : Nat := intervalOf s.now % 2 ^ 32 * 2 ^ 32 + s.power.rate % 2 ^ 13

/-- A bit for each die. -/
def State.dieBits (s : State) (f : Die → Bool) : Nat :=
  ((List.range 4).map (fun d => if f (s.die d) then 2 ^ d else 0)).sum

/-- CHG (R340). -/
def State.chg (s : State) : Nat :=
  s.dieBits (fun d => d.hdrm) * 2 ^ 28 + s.dieBits (fun d => d.trip) * 2 ^ 24 + (Config.bankEnergy s.now).toNat

/-- Code of a run mode (R379). -/
def modeCode : Mode → Nat
  | .full => 0
  | .minimal => 1
  | .recovery => 2

/-- BOOTSTAT (R379). -/
def State.bootStat (s : State) : Nat :=
  s.boot.recno.toNat * 2 ^ 32 + min s.boot.fails 15 * 2 ^ 20 + s.boot.slot % 4 * 2 ^ 16 + s.boot.reason % 256 * 2 ^ 8 +
    modeCode s.mode

/-- LOC (R15, R64). -/
def Crew.loc (c : Crew) : Nat := c.core % 256 + c.quad % 4 * 2 ^ 8 + c.slot % 8 * 2 ^ 10

/-- SRD: a register sampled at hand-off, zero-extended (R64, R160). -/
def Env.sysRead (e : Env) (n : Nat) : Nat :=
  if n = 0x000 then Config.creww
  else if n = 0x001 then e.s.slate.toNat
  else if n = 0x002 then e.p.side.exm.toNat
  else if n = 0x004 then e.c.live.toNat
  else if n = 0x008 then e.c.loc
  else if n = 0x018 then e.c.win * 16
  else if n = 0x100 then (e.s.core e.c.core).bal
  else if n = 0x101 then (e.s.die (dieOf e.c.core)).bal
  else if n = 0x102 then e.s.power.bal
  else if n = 0x103 then e.s.tkRate
  else if n = 0x104 then e.s.chg
  else if n = 0x200 then e.c.sys.trapc.toNat
  else if n = 0x201 then e.c.sys.trapv.toNat
  else if n = 0x300 then e.s.bootStat
  else e.v.sysVal n

end Sys2Proof.Machine
end

