-- ==== Sys2Proof/Machine/Scalar.lean ====
section
/-! DEFINITION. The scalar instructions (R157 to R160). -/

namespace Sys2Proof.Machine

/-- Width of a scalar type (R158). -/
def scalarBits (ty : BitVec 3) : Nat := if ty.toNat ≤ 1 then 64 else 32
/-- opnd(x) (R158). -/
def opnd (signed : Bool) (n : Nat) (x : Word) : Int := intOf signed n x.toNat
/-- A result narrowed to n bits and extended to 64 (R158). -/
def scalarExt (signed : Bool) (n : Nat) (v : Int) : Word :=
  if signed then wordOf (sextInt n (wrapNat n v)) else BitVec.ofNat 64 (wrapNat n v)

/-- The result of a scalar instruction of family R whose table row is f (R158). -/
def scalarVal (v : Crew) (o : FieldsR) (f : Nat → Bool → Int → Int → Int → Int) : Word :=
  let n := scalarBits o.ty
  let sg := tySigned o.ty
  scalarExt sg n (f n sg (opnd sg n (scalarSrc v o 1 o.sa)) (opnd sg n (scalarSrc v o 2 o.sb))
    (opnd sg n (scalarSrc v o 3 o.sc)))

/-- A scalar instruction of family R writes its result to s[DST] (R158). -/
def scalarOp (o : FieldsR) (f : Nat → Bool → Int → Int → Int → Int) (e : Env) : Res :=
  .ok (e.s.ws e.r.crew o.dst.toNat (scalarVal e.v o f))

/-- sh (R158). -/
def shiftBy (n : Nat) (b : Int) : Nat := wrapNat 64 b % 64 % n

def execMov (o : FieldsR) (s : State) : Host.Outcome State Fault Refusal :=
  runWord (.mov o) s (scalarOp o (fun _ _ a _ _ => a))
def execAdd (o : FieldsR) (s : State) : Host.Outcome State Fault Refusal :=
  runWord (.add o) s (scalarOp o (fun _ _ a b _ => a + b))
def execSub (o : FieldsR) (s : State) : Host.Outcome State Fault Refusal :=
  runWord (.sub o) s (scalarOp o (fun _ _ a b _ => a - b))
def execMul (o : FieldsR) (s : State) : Host.Outcome State Fault Refusal :=
  runWord (.mul o) s (scalarOp o (fun _ _ a b _ => a * b))
def execMulh (o : FieldsR) (s : State) : Host.Outcome State Fault Refusal :=
  runWord (.mulh o) s (scalarOp o (fun n _ a b _ => a * b / (2 ^ n : Nat)))
def execDiv (o : FieldsR) (s : State) : Host.Outcome State Fault Refusal :=
  runWord (.div o) s (scalarOp o (fun _ _ a b _ => divTrunc a b))
def execRem (o : FieldsR) (s : State) : Host.Outcome State Fault Refusal :=
  runWord (.rem o) s (scalarOp o (fun _ _ a b _ => remTrunc a b))
def execAnd (o : FieldsR) (s : State) : Host.Outcome State Fault Refusal :=
  runWord (.and o) s (scalarOp o (fun n _ a b _ => bitwise n (· &&& ·) a b))
def execOr (o : FieldsR) (s : State) : Host.Outcome State Fault Refusal :=
  runWord (.or o) s (scalarOp o (fun n _ a b _ => bitwise n (· ||| ·) a b))
def execXor (o : FieldsR) (s : State) : Host.Outcome State Fault Refusal :=
  runWord (.xor o) s (scalarOp o (fun n _ a b _ => bitwise n (· ^^^ ·) a b))
def execNot (o : FieldsR) (s : State) : Host.Outcome State Fault Refusal :=
  runWord (.not o) s (scalarOp o (fun _ _ a _ _ => -a - 1))
def execShl (o : FieldsR) (s : State) : Host.Outcome State Fault Refusal :=
  runWord (.shl o) s (scalarOp o (fun n _ a b _ => a * (2 ^ shiftBy n b : Nat)))
def execShr (o : FieldsR) (s : State) : Host.Outcome State Fault Refusal :=
  runWord (.shr o) s (scalarOp o (fun n _ a b _ => Int.ofNat (wrapNat n a / 2 ^ shiftBy n b)))
def execSar (o : FieldsR) (s : State) : Host.Outcome State Fault Refusal :=
  runWord (.sar o) s (scalarOp o (fun n _ a b _ => sextInt n (wrapNat n a) / (2 ^ shiftBy n b : Nat)))
def execRot (o : FieldsR) (s : State) : Host.Outcome State Fault Refusal :=
  runWord (.rot o) s (scalarOp o (fun n _ a b _ => rotl n (shiftBy n b) a))
def execMin (o : FieldsR) (s : State) : Host.Outcome State Fault Refusal :=
  runWord (.min o) s (scalarOp o (fun _ _ a b _ => if a < b then a else b))
def execMax (o : FieldsR) (s : State) : Host.Outcome State Fault Refusal :=
  runWord (.max o) s (scalarOp o (fun _ _ a b _ => if a < b then b else a))
def execClz (o : FieldsR) (s : State) : Host.Outcome State Fault Refusal :=
  runWord (.clz o) s (scalarOp o (fun n _ a _ _ => Int.ofNat (leadingZeros n (wrapNat n a))))
def execPopc (o : FieldsR) (s : State) : Host.Outcome State Fault Refusal :=
  runWord (.popc o) s (scalarOp o (fun n _ a _ _ => Int.ofNat (popcount n (wrapNat n a))))
def execBfe (o : FieldsR) (s : State) : Host.Outcome State Fault Refusal :=
  runWord (.bfe o) s (scalarOp o (fun n sg a b _ => bfe n sg a b))
def execBfi (o : FieldsR) (s : State) : Host.Outcome State Fault Refusal :=
  runWord (.bfi o) s (scalarOp o (fun n _ a b c => bfi n a b c))

/-- SEL tests the whole 64 bits of source 1, whatever TYPE says (R158). -/
def execSel (o : FieldsR) (s : State) : Host.Outcome State Fault Refusal :=
  runWord (.sel o) s (fun e =>
    scalarOp o (fun _ _ _ b c => if scalarSrc e.v o 1 o.sa ≠ 0 then b else c) e)

/-- CMP writes 0 or 1 (R158). -/
def execCmp (o : FieldsR) (s : State) : Host.Outcome State Fault Refusal :=
  runWord (.cmp o) s (fun e =>
    let n := scalarBits o.ty
    let sg := tySigned o.ty
    .ok (e.s.ws e.r.crew o.dst.toNat
      (if intCond o.md.toNat (opnd sg n (scalarSrc e.v o 1 o.sa)) (opnd sg n (scalarSrc e.v o 2 o.sb)) then 1 else 0)))

/-- MOVI (R157): TYPE 0 sign-extends, TYPE 1 zero-extends. -/
def execMovi (o : FieldsI) (s : State) : Host.Outcome State Fault Refusal :=
  runWord (.movi o) s (fun e =>
    .ok (e.s.ws e.r.crew o.dst.toNat (if o.ty = 0 then o.imm.signExtend 64 else o.imm.zeroExtend 64)))
/-- MOVH (R157): the low half is unchanged. -/
def execMovh (o : FieldsI) (s : State) : Host.Outcome State Fault Refusal :=
  runWord (.movh o) s (fun e =>
    .ok (e.s.ws e.r.crew o.dst.toNat (o.imm ++ (e.v.rs o.dst.toNat).setWidth 32)))
/-- ADDA (R157). -/
def execAdda (o : FieldsI) (s : State) : Host.Outcome State Fault Refusal :=
  runWord (.adda o) s (fun e => .ok (e.s.ws e.r.crew o.dst.toNat (e.v.rs o.sa.toNat + o.imm.signExtend 64)))

/-- SRD (R160). -/
def execSrd (o : FieldsS) (s : State) : Host.Outcome State Fault Refusal :=
  runWord (.srd o) s (fun e => .ok (e.s.ws e.r.crew o.dst.toNat (BitVec.ofNat 64 (e.sysRead o.sys.toNat))))

/-- SWR (R160): reserved bits follow R5. An SWR to a view register waits for every earlier word of the path; for
those that a pre-emption has stopped at its hand-off (Crew.recHolds). -/
def execSwr (o : FieldsS) (s : State) : Host.Outcome State Fault Refusal :=
  runWord (.swr o) s (fun e =>
    if writesView (.swr o) ∧ e.p.flights ≠ [] then .stall
    else .ok (e.s.updCrew e.r.crew (fun c => c.setSys o.sys.toNat (e.v.rs o.ss.toNat).toNat)))

end Sys2Proof.Machine
end

