-- ==== Sys2Proof/Machine/Control.lean ====
section
/-! DEFINITION. Branches, divergence, the end of lanes and pauses (R39 to R48, R139 to R147, R185). -/

namespace Sys2Proof.Machine

/-- H, the header address of the clause that holds the word (R136). -/
def Env.h (e : Env) : Word := e.p.side.pc
/-- N (R136). -/
def Env.n (e : Env) : Word := e.p.nextClause

/-- NOP has no effect (R145). -/
def execNop (s : State) : Host.Outcome State Fault Refusal := runWord .nop s (fun e => .ok e.s)

/-- BRA (R141). -/
def execBra (o : FieldsB) (s : State) : Host.Outcome State Fault Refusal :=
  runWord (.bra o) s (fun e => .jump e.s (target e.h 32 o.off.toNat))
/-- BRC (R140, R141). -/
def execBrc (o : FieldsB) (s : State) : Host.Outcome State Fault Refusal :=
  runWord (.brc o) s (fun e =>
    if brcCond o.ty.toNat (e.v.rs o.d.toNat) (e.v.rs o.e.toNat) then .jump e.s (target e.h 32 o.off.toNat)
    else .ok e.s)
/-- JOIN moves control as BRA does (R141). -/
def execJoin (o : FieldsI) (s : State) : Host.Outcome State Fault Refusal :=
  runWord (.join o) s (fun e => .jump e.s (target e.h 32 o.imm.toNat))
/-- CALL (R141): with s63 the link is discarded. -/
def execCall (o : FieldsB) (s : State) : Host.Outcome State Fault Refusal :=
  runWord (.call o) s (fun e => .jump (e.s.ws e.r.crew o.d.toNat e.n) (target e.h 32 o.off.toNat))
/-- LOOP (R141). -/
def execLoop (o : FieldsB) (s : State) : Host.Outcome State Fault Refusal :=
  runWord (.loop o) s (fun e =>
    let x := e.v.rs o.d.toNat - 1
    let t := e.s.ws e.r.crew o.d.toNat x
    if x ≠ 0 then .jump t (target e.h 32 o.off.toNat) else .ok t)
/-- RET and JMPI go to a scalar's value, which must be aligned (R141). -/
def jumpTo (o : FieldsR) (e : Env) : Res :=
  let a := e.v.rs o.sa.toNat
  if a.toNat % 8 ≠ 0 then .trap e.s (e.misaligned a) else .jump e.s a
def execRet (o : FieldsR) (s : State) : Host.Outcome State Fault Refusal := runWord (.ret o) s (jumpTo o)
def execJmpi (o : FieldsR) (s : State) : Host.Outcome State Fault Refusal := runWord (.jmpi o) s (jumpTo o)

/-! ### BRV (R143) -/

/-- A trap for an entry that R41 does not allow: its CAUSE. -/
def Env.overflow (e : Env) : Option Nat :=
  if e.c.entries = 16 ∧ e.v.mapsSpill then some 1 else if 128 ≤ e.c.entries then some 2 else none

/-- The spill area after a spill holds the implementation's private layout (R41): free bytes. -/
def Crew.spillFill (c : Crew) (free : Nat) : Crew :=
  if c.spilled then
    { c with urs := Memory.writeBytes c.urs (c.win * 4096 - 1024)
                      ((List.range 1024).map (fun k => Config.spillByte free k)) }
  else c

/-- The word is in flight while its meaning places the path itself. -/
def Env.launched (e : Env) (i : Instr) (s : State) : State :=
  { e.launch i s with
    stamp := s.stamp + stampStride, nextId := s.nextId + 1 }

/-- BRV (R39 to R41, R143). -/
def execBrv (o : FieldsBJ) (s : State) : Host.Outcome State Fault Refusal :=
  runWord (.brv o) s (fun e =>
    let tgt := target e.h 20 o.toff.toNat
    let k := e.v.rk o.d.toNat
    let t := e.p.side.exm &&& (if o.ty = 0 then k else ~~~k)
    let n := e.p.side.exm &&& ~~~t
    let f : Frame := { div := e.s.nextId, join := target e.h 20 o.joff.toNat, outer := e.p.side.members }
    if n = 0 then .jump e.s tgt
    else if t = 0 then .ok e.s
    else
      let u := e.launched (.brv o) e.s
      if e.c.isSingle then
        .done (u.updCrew e.r.crew (fun c => c.split ((c.path? e.r.sel).getD e.p) f t n tgt e.n e.s.stamp))
      else
        match e.overflow with
        | some cause => .trap e.s (e.mkTrap 6 cause e.w .word)
        | none => .done (u.updCrew e.r.crew (fun c => (c.nest e.r.sel f t n tgt e.n e.s.stamp).spillFill e.s.free)))

/-! ### PAUSE (R46, R47, R147) -/

/-- Has the path an entry that has not reached its JOIN? -/
def Path.mayYield (p : Path) : Bool := p.stack.any (fun x => !x.reached)

/-- A path that stands at a clause boundary enters Paused (R44, R47). -/
def Crew.pauseOn (c : Crew) (sel : PathSel) (w : Wait) : Crew :=
  c.updPath sel (fun p => if p.wait = .none ∧ !p.inside then { p with wait := w } else p)

/-- What a path does after the clause of a PAUSE: it yields where it can (R46), at once: DEDUCED (log 32); and it takes on
the wait w. Where its side has reached its JOIN at the clause boundary, the side that runs then is the one that yields; a path that
waits for its peer at the JOIN of the split neither yields nor waits. -/
def Crew.pauseAt (c : Crew) (sel : PathSel) (w : Wait) (top : Nat) : Crew :=
  match c.path? sel with
  | none => c
  | some q =>
    if q.wait ≠ .none then c
    else
      match (if q.mayYield then q.yield top else none) with
      | some y => ((c.updPath sel (fun _ => y)).atBoundary sel (top + 1)).pauseOn sel w
      | none => c.pauseOn sel w

/-- The later of two ends of a lowered priority: a PAUSE of a count of 0, or of a shorter one, ends no earlier PAUSE's
lowering (R46). -/
def laterEnd : Option Nat → Option Nat → Option Nat
  | none, b => b
  | a, none => a
  | some a, some b => some (max a b)

/-- The end of the clause of a PAUSE, with its lowered priority and its wait. -/
def Env.pause (e : Env) (i : Instr) (low : Option Nat) (w : Wait) : Res :=
  let t := e.leave i (e.s.updPath e.r (fun p => { p with lowUntil := laterEnd p.lowUntil low })) e.n
  .done ({ t with stamp := t.stamp + stampStride }.updCrew e.r.crew (fun c =>
    c.pauseAt e.r.sel w t.stamp))

/-- The tick of cycles at which a count of n ends; none for 0. -/
def Env.countEnd (e : Env) (n : Nat) : Option Nat := if n = 0 then none else some (e.s.cycles + n)

/-- The granule of G that an address-form PAUSE watches: none when the address is not mapped readable (R147), among which
the model counts every address of a window, a scratch bank's too. DESIGN CHOICE (log 106). -/
def State.watched (s : State) (core va : Nat) : Option Nat :=
  if wakeBase ≤ va then none
  else match s.lookup core va with
    | .bad _ _ => none
    | .leaf e p =>
      if entryAllows .load e && !(decide (firmwareBase ≤ p) && decide (p < firmwareBase + firmwareSize)) then
        some ((p + va % 4096) / 64) else none

/-- PAUSE, count form (R147). -/
def execPause (o : FieldsI) (s : State) : Host.Outcome State Fault Refusal :=
  runWord (.pause o) s (fun e => e.pause (.pause o) (e.countEnd o.imm.toNat) .none)
/-- PAUSE, address form (R47, R147). -/
def execPauseW (o : FieldsI) (s : State) : Host.Outcome State Fault Refusal :=
  runWord (.pauseW o) s (fun e =>
    match e.s.watched e.c.core (e.v.rs o.sa.toNat).toNat with
    | none => e.pause (.pauseW o) (e.countEnd o.imm.toNat) .none
    | some g => e.pause (.pauseW o) none (.paused (some g) (e.countEnd o.imm.toNat)))

/-- The count of a PAUSE expires (R46, R47). -/
def Path.expire (p : Path) (cycles : Nat) : Path :=
  let q := match p.lowUntil with | some t => if t ≤ cycles then { p with lowUntil := none } else p | none => p
  match q.wait with
  | .paused _ (some t) => if t ≤ cycles then { q with wait := .none } else q
  | _ => q

/-- PAUSE_COUNT_EXPIRY (R46, R47). -/
def execPauseCountExpiry (r : PathRef) (s : State) : Host.Outcome State Fault Refusal :=
  .next (s.updPath r (fun p => p.expire s.cycles))

/-- SPURIOUS_WAKE_UP (R47). -/
def execSpuriousWakeUp (r : PathRef) (s : State) : Host.Outcome State Fault Refusal :=
  .next (s.updPath r (fun p => match p.wait with | .paused _ _ => { p with wait := .none } | _ => p))

/-- WORD_COMPLETE (R72): an instruction in flight completes. -/
def execWordComplete (r : PathRef) (n : Nat) (s : State) : Host.Outcome State Fault Refusal :=
  .next (s.updPath r (fun p => { p with flights := p.flights.eraseIdx n }))

/-- ERET (R359). -/
def execEret (s : State) : Host.Outcome State Fault Refusal :=
  runWord .eret s (fun e => if e.c.handler = some e.r.sel then e.eret else .trap e.s e.illegal)

/-- TRAP (R357). -/
def execTrap (o : FieldsS) (s : State) : Host.Outcome State Fault Refusal :=
  runWord (.trap o) s (fun e =>
    .trap e.s { e.mkTrap 13 0 (e.v.rs o.ss.toNat) .after with code := o.imm.toNat })

/-- HALT (R357, R381): a debug stop at the current tick when DBGCTL.HEN is 1, else TRAP 0x3FFFFF. -/
def execHalt (s : State) : Host.Outcome State Fault Refusal :=
  runWord .halt s (fun e =>
    if e.s.dbg.hen then .done { e.s with dbg := { e.s.dbg with stopped := true } }
    else .trap e.s { e.mkTrap 13 0 0 .after with code := 0x3FFFFF })

end Sys2Proof.Machine
end

