-- ==== Sys2Proof/Machine/Regions.lean ====
section
/-! DEFINITION. Regions: the template and its resolution (R16 to R19), counters (R25, R26), instantiation, and the completion
of a region in the order of R27. -/

namespace Sys2Proof.Machine

/-! ### Templates (R17, R18) -/

/-- The core index that stands for an agent without a core: it has no TLB and no cluster. -/
def noCore : Nat := 4096

/-- Read bytes of G at virtual addresses as an agent reads them (R211, R361). -/
def State.gRead (s : State) (core region va n : Nat) : Except MemFault (List Byte) :=
  match s.locs core region .load false (span va n) with
  | .error f => .error f
  | .ok ls => .ok (ls.map (s.readLoc core true))

/-- What such a read leaves behind (R196): one that meets a wake register sets that queue's WERR (R371). -/
def State.gTouch (s : State) (core region va n : Nat) : State :=
  match s.locs core region .load false (span va n) with
  | .error _ => s
  | .ok ls => s.agentTouch ls

/-- The 8 bytes at an offset of a byte string as a number. -/
def word8 (b : List Byte) (off : Nat) : Nat := ofBytes ((b.drop off).take 8)

/-- The RW fields of a template (R17). -/
def parseRcb (b : List Byte) : Rcb :=
  let w := word8 b
  { entry := BitVec.ofNat 64 (bits (w 0x08) 56 3 * 8), karg := BitVec.ofNat 64 (w 0x10),
    views := { v := BitVec.ofNat 32 (w 0x18), w := BitVec.ofNat 32 (w 0x18 / 2 ^ 32), t := BitVec.ofNat 32 (w 0x20),
               a := BitVec.ofNat 32 (w 0x20 / 2 ^ 32), d := BitVec.ofNat 32 (w 0x28) },
    lockq := bits (w 0x30) 63 48, toksh := bits (w 0x30) 39 32, banks := bits (w 0x30) 28 24,
    win := bits (w 0x30) 20 16, maxc := bits (w 0x30) 15 0, clmask := BitVec.ofNat 16 (w 0x38 / 16),
    diemask := BitVec.ofNat 4 (w 0x38), spillb := BitVec.ofNat 64 (bits (w 0x40) 56 12 * 4096),
    spills := bits (w 0x48) 31 0, fdom := bits (w 0x50) 63 48, stepg := bits (w 0x50) 47 32,
    ovr := BitVec.ofNat 12 (w 0x50 / 2 ^ 16), fpol := bits (w 0x50) 5 4, prio := bits (w 0x50) 3 0,
    handler := BitVec.ofNat 64 (w 0x58), ssrb := BitVec.ofNat 64 (bits (w 0x68) 56 6 * 64),
    ssrn := bits (w 0x68) 4 0, ltrb := BitVec.ofNat 64 (bits (w 0x78) 56 6 * 64), ltrn := bits (w 0x78) 4 0,
    taga := BitVec.ofNat 32 (w 0x88), compa := BitVec.ofNat 64 (w 0x90), wakea := BitVec.ofNat 64 (w 0x98),
    wakev := BitVec.ofNat 64 (w 0xA0) }

/-- Is an override bit set (R18)? -/
def Rcb.overrides (t : Rcb) (k : Nat) : Bool := t.ovr.getLsbD k

/-- Resolution of a template (R18): a child takes a field from its template only under its override bit. -/
def resolveRcb (t : Rcb) : Option Rcb → Rcb
  | none => t
  | some p =>
    { t with
      maxc := if t.overrides 0 then t.maxc else p.maxc
      win := if t.overrides 1 then t.win else p.win
      banks := if t.overrides 2 then t.banks else p.banks
      toksh := if t.overrides 3 then t.toksh else p.toksh
      lockq := if t.overrides 4 then t.lockq else p.lockq
      diemask := if t.overrides 5 then t.diemask else p.diemask
      clmask := if t.overrides 5 then t.clmask else p.clmask
      spillb := if t.overrides 6 then t.spillb else p.spillb
      spills := if t.overrides 6 then t.spills else p.spills
      prio := if t.overrides 7 then min t.prio p.prio else p.prio
      fdom := if t.overrides 8 then t.fdom else p.fdom
      fpol := if t.overrides 9 then t.fpol else p.fpol
      handler := if t.overrides 10 then t.handler else p.handler
      stepg := if t.overrides 11 then t.stepg else p.stepg }

/-- C of R19: the live crews a region may have (R17). -/
def Rcb.maxCrews (t : Rcb) : Nat := if t.maxc = 0 then 8192 else t.maxc

/-- The dies a region may use that are in service (R10, R17, R379). -/
def State.diesOf (s : State) (t : Rcb) : List Nat :=
  (List.range 4).filter (fun d =>
    (t.diemask == 0 || t.diemask.getLsbD d) && (s.mode == .full || (s.mode == .minimal && d == 0)))

/-- The cores within a region's placement masks (R17, R30). -/
def State.coresOf (s : State) (t : Rcb) : List Nat :=
  (List.range Config.cores).filter (fun k =>
    (s.diesOf t).contains (dieOf k) && (t.clmask == 0 || t.clmask.getLsbD (clusterOf k % 16)))

/-- Does ENTRY address memory that is not mapped executable (R19): a fatal fault of its fetch, or a valid leaf with X clear,
whatever its REPL says (log 52)? -/
def State.entryBad (s : State) (va : Nat) : Bool :=
  match s.fetchWord noCore 0 0 va with
  | .error f => !f.replayable || (f.cls == 8 && f.cause == 2)
  | .ok _ => false

/-- The ERR code of the first failing check of R19, if any. -/
def State.refusal (s : State) (t : Rcb) : Option Nat :=
  if t.win = 0 ∨ 16 < t.win then some 1
  else if 16 < t.banks then some 2
  else if t.fpol = 3 then some 3
  else if t.fpol = 2 ∧ t.handler = 0 then some 4
  else if s.entryBad t.entry.toNat then some 5
  else if 24 < t.ssrn ∨ 24 < t.ltrn then some 6
  else if t.spills * 4096 < t.maxCrews * (t.win * 4096 + 4096) then some 7
  else if (s.diesOf t).isEmpty then some 8
  else none

/-- A region as it is instantiated (R17, R24). -/
def newRegion (id : Nat) (t : Rcb) (parent spawner : Option Nat) (die : Nat) : Region :=
  { id := id, parent := parent, spawner := spawner, rcb := t, state := .running, err := 0, endCode := 0, cnt := 1,
    ssrt := 0, ssrh := 0, ltrt := 0, ltrh := 0, spawnRing := [], laneRing := [], homeDie := die, seed := none,
    queue := none, phase := 0, tag := 0, ending := none, trapped := false, reel := none }

/-! ### Counters (R25, R26) -/

/-- May CNT rise by one (R26)? -/
def Region.cntRoom (g : Region) : Bool := decide (g.cnt < 2 ^ 32 - 1)
/-- CNT rises. -/
def State.cntUp (s : State) (id k : Nat) : State := s.updRegion id (fun g => { g with cnt := g.cnt + k })

/-! ### Completion (R27) -/

/-- The end value (R27). -/
def Region.endValue (g : Region) : Nat := g.err % 256 * 2 ^ 8 + g.endCode

/-- A store of the front end in a region's address space (R27): to memory, its eight bytes at the address whatever its
alignment: DESIGN CHOICE (log 92); or to a wake register (R21). A page that the host owns is the migration fault (R217, R219). In
the cluster aperture it faults, since the front end is in no cluster. DESIGN CHOICE (log 127). -/
def State.frontStore (s : State) (region va value : Nat) : Except MemFault State :=
  match s.locs noCore region .store false (span va 8) with
  | .error f => .error f
  | .ok ls =>
    let mems := memPart (ls.zip (toBytes 8 value))
    let mem : State := ((s.noted (mems.map (fun q => q.1))).gWrite mems).agentTouch ls
    match wakePart ls with
    | [(k, q)] =>
      if va % 8 = 0 ∧ mems.isEmpty then
        .ok (if k = s.pkgId.toNat then s.post (.wakeStore q 8 true (BitVec.ofNat 64 value))
             else s.send (BitVec.ofNat 10 k) true false (.wake q (BitVec.ofNat 64 value)))
      else .ok mem
    | _ => .ok mem

/-- The END_STORE event of a store that is dropped (R27, R369). -/
def State.endStoreEvent (s : State) (g : Region) (va value cls cause : Nat) : State :=
  s.postWords [s.slate.toNat, va, value, cls * 2 ^ 8 + cause, 0, (Config.rcbAddress g.id).toNat] 13

/-- The address and the value of the store of a completion step; address 0 is none (R17). -/
def Region.endTarget (g : Region) (e : Ending) : Nat × Nat :=
  match e.step with
  | .compa => (g.rcb.compa.toNat, g.endValue)
  | .wakea => (g.rcb.wakea.toNat, g.rcb.wakev.toNat)
  | .last => (0, 0)

/-- The completion step after a store is made or dropped. -/
def EndStep.succ : EndStep → EndStep
  | .compa => .wakea
  | .wakea => .last
  | .last => .last

/-- Set the completion under way of a region. -/
def State.setEnding (s : State) (id : Nat) (e : Option Ending) : State := s.updRegion id (fun g => { g with ending := e })

/-- What an ended region held: banks, pins, ballast lists, barriers, weight slots, armed counters, and its mark on the
cores it ran on (R49, R191, R197, R251, R345). -/
def State.releaseHoldings (s : State) (id : Nat) : State :=
  { s with
    clusters := s.clusters.map (fun c =>
      { c with banks := c.banks.map (fun b => if b.holder = some id then Bank.reset else b) })
    pins := s.pins.filter (fun p => p.2 != id)
    dies := s.dies.map (fun d => { d with blists := d.blists.filter (fun l => l.region != id) })
    cores := s.cores.map (fun c =>
      { c with barriers := c.barriers.filter (fun b => b.2.region != id)
               slots := c.slots.map (fun w => if w.2.owner = some id then (w.1, { w.2 with owner := none }) else w)
               ran := c.ran.filter (fun r => r != id) })
    fab := { s.fab with armed := s.fab.armed.filter (fun a => a.region != id) } }

/-- Region end acts as a phase boundary: every core that ran a crew of it publishes (R27, R201). -/
def State.publishRan (s : State) (id : Nat) : State :=
  (List.range s.cores.length).foldl (fun t k => if (s.core k).ran.contains id then t.publish k else t) s

/-- Completion begins (R27): publish, then the stores. -/
def State.beginEnd (s : State) (id : Nat) : State :=
  (s.publishRan id).setEnding id (some { step := .compa, fault := none, since := s.now, refused := false })

/-- The sum of the pages that a region wrote, in ascending address (R259, R382): those noted (State.noted) while it ran. -/
def State.reelSum (s : State) : Word :=
  BitVec.ofNat 64 (s.dbg.wrote.foldl (fun h p => foldWords h (Memory.words s.g (p * 4096) 512)) 0)

/-- The end of a region that a packet launched, with its descendants, for the reel and the take (R382): while capture runs its
sum is recorded with its packet; a take compares its sum with the recorded one and posts TAKE_MISMATCH on a difference. -/
def State.reelEnd (s : State) (g : Region) : State :=
  match g.reel with
  | none => s
  | some k =>
    let p := s.dbg.packets.getD k { queue := 0, slate := 0, base := 0, units := [], tag := 0, sum := none }
    if s.dbg.active then
      { s with dbg := { s.dbg with packets := setAt s.dbg.packets k { p with sum := some s.reelSum }, wrote := [] } }
    else if !s.dbg.take then s
    else
      let t : State := { s with dbg := { s.dbg with wrote := [] } }
      match p.sum with
      | none => t
      | some x => if x = s.reelSum then t else t.postWords [s.slate.toNat, g.tag.toNat, x.toNat, s.reelSum.toNat] 12

/-- The region reaches its final state (R20, R27). END 1 is COMPLETE. -/
def State.finalState (s : State) (g : Region) (refused : Bool) : State :=
  let t := s.updRegion g.id (fun x => { x with ending := none, state := if x.endCode = 1 then .complete else .terminated })
  if refused then t else (t.reelEnd g).releaseHoldings g.id

/-- A child of a crew has ended (R12, R27); with its last one a crew saved in WAITSP becomes ready for restore (R32), which
is when its age as a candidate begins (R30). -/
def Crew.childGone (c : Crew) (stamp : Nat) : Crew :=
  { c with children := c.children - 1,
           since := if c.children ≤ 1 ∧ c.state = .saved .waitsp then stamp else c.since }

/-- A child of a crew has ended: no two moments at which crews become ready for restore are one (R30). -/
def State.childLeft (s : State) (id : Nat) : State :=
  { s.updCrew id (fun c => c.childGone s.stamp) with stamp := s.stamp + 1 }

/-- Step 4 of R27: the parent's CNT and the spawning crew's child count fall. -/
def State.childEnded (s : State) (g : Region) : State :=
  match g.parent with
  | none => s
  | some p =>
    let t := s.updRegion p (fun x => { x with cnt := x.cnt - 1 })
    match g.spawner with
    | none => t
    | some k => t.childLeft k

/-- Has CNT of a running region reached zero? A suspended region completes once it is resumed (R20). -/
def State.drained (s : State) (id : Nat) : Bool :=
  match s.region? id with
  | none => false
  | some g => g.cnt == 0 && g.state == .running && g.ending.isNone

/-- Take the steps of R27 until a store is held by a fault, and a parent's completion after its last child's. -/
def State.runEnding : Nat → Nat → State → State
  | 0, _, s => s
  | fuel + 1, id, s =>
    match s.region? id with
    | none => s
    | some g =>
      match g.ending with
      | none => s
      | some e =>
        let tv := g.endTarget e
        let on (t : State) : State :=
          State.runEnding fuel id (t.setEnding id (some { e with step := e.step.succ, fault := none }))
        if e.step = .last then
          let t := (s.finalState g e.refused)
          if e.refused then t
          else
            let u := t.childEnded g
            match g.parent with
            | none => u
            | some p =>
              if u.drained p then
                State.runEnding fuel p ((u.updRegion p (fun x => { x with endCode := 1 })).beginEnd p)
              else u
        else if tv.1 = 0 then on s
        else
          match s.frontStore id tv.1 tv.2 with
          | .ok t => on t
          | .error f =>
            if f.replayable then s.setEnding id (some { e with fault := some f, since := s.now })
            else on (s.endStoreEvent g tv.1 tv.2 f.cls f.cause)

/-- Fuel for the completion of a region and of its ancestors. -/
def State.endFuel (s : State) : Nat := 4 * (s.regions.length + 1)

/-- Run the completion of a region as far as it goes. -/
def State.complete (s : State) (id : Nat) : State := State.runEnding s.endFuel id s

/-- At CNT zero a running region completes with END 1 (R25, R27). -/
def State.cntCheck (s : State) (id : Nat) : State :=
  if s.drained id then ((s.updRegion id (fun g => { g with endCode := 1 })).beginEnd id).complete id else s

/-- CNT of a region falls. -/
def State.cntDown (s : State) (id : Nat) : State :=
  (s.updRegion id (fun g => { g with cnt := g.cnt - 1 })).cntCheck id

end Sys2Proof.Machine
end

