-- ==== Sys2Proof/Machine/Work.lean ====
section
/-! DEFINITION. Creating work: spawn requests (R28, R29, R149), lane tasks and the Casting unit (R33 to R38, R150, R151),
and WAITSP (R32, R152). -/

namespace Sys2Proof.Machine

/-! ### Spawn requests -/

/-- The status with which a request would be placed (R28): 0 queue, 1 ring, 2 refused; a full CNT refuses too
(R26), for SPAWNR before its template is read. DESIGN CHOICE (log 144). -/
def State.spawnStatus (s : State) (die : Nat) (g : Region) : Nat :=
  if !g.cntRoom then 2
  else if (s.die die).spawnQ.length < Config.spawnQueueSize ∧ g.spawnRing = [] then 0
  else if g.rcb.ssrn ≠ 0 ∧ g.spawnRing.length < 2 ^ g.rcb.ssrn then 1
  else 2

/-- Place a request where its status says; the ring is that of the spawner's region g (R28). -/
def State.placeRequest (s : State) (g status : Nat) (q : Request) : State :=
  if status = 0 then s.updDie q.die (fun d => { d with spawnQ := d.spawnQ ++ [q] })
  else if status = 1 then
    s.updRegion g (fun x => { x with spawnRing := x.spawnRing ++ [q], ssrt := (x.ssrt + 1) % 2 ^ 32 })
  else s

/-- An accepted request counts in CNT and in the crew's child count (R25, R149). -/
def State.countChild (s : State) (g crew : Nat) : State :=
  (s.cntUp g 1).updCrew crew (fun c => { c with children := c.children + 1 })

/-- SPAWN (R149). -/
def execSpawn (o : FieldsR) (s : State) : Host.Outcome State Fault Refusal :=
  runWord (.spawn o) s (fun e =>
    let t := e.v.rs o.sa.toNat
    if t.toNat % 8 ≠ 0 then .trap e.s (e.misaligned t)
    else
      match e.s.region? e.c.region with
      | none => .stall
      | some g =>
        let die := dieOf e.c.core
        let st := e.s.spawnStatus die g
        let q : Request := { die := die, region := g.id, entry := t, arg := scalarSrc e.v o 2 o.sb, seed := false,
                             spawner := some e.c.id, since := e.s.stamp }
        let u : State := { e.s.placeRequest g.id st q with stamp := e.s.stamp + 1 }
        .ok ((if st ≤ 1 then u.countChild g.id e.c.id else u).ws e.r.crew o.dst.toNat (BitVec.ofNat 64 st)))

/-- A refused region takes steps 2 and 3 of R27 with END LAUNCH_ERROR (R19). -/
def State.refuse (s : State) (g : Region) (err : Nat) : State :=
  let e : Ending := { step := .compa, fault := none, since := s.now, refused := true }
  let x : Region := { g with state := .terminated, err := err, endCode := 3, cnt := 0, ending := some e }
  { s with nextId := s.nextId + 1, regions := s.regions ++ [x] }.complete g.id

/-- SPAWNR (R149): the release comes after the alignment check and before everything else. -/
def execSpawnr (o : FieldsR) (s : State) : Host.Outcome State Fault Refusal :=
  runWord (.spawnr o) s (fun e =>
    let m := e.v.rs o.sa.toNat
    let x := scalarSrc e.v o 2 o.sb
    if m.toNat % 64 ≠ 0 then .trap e.s (e.misaligned m)
    else
      match e.s.region? e.c.region with
      | none => .stall
      | some g =>
        let p := e.s.publish e.c.core
        let w := p.gTouch e.c.core g.id m.toNat 256
        let die := dieOf e.c.core
        let st := p.spawnStatus die g
        let out (u : State) (n : Nat) : Res := .ok (u.ws e.r.crew o.dst.toNat (BitVec.ofNat 64 n))
        if 2 ≤ st then out p 2
        else
          match p.gRead e.c.core g.id m.toNat 256 with
          | .error f => .mem p f
          | .ok b =>
            let t0 := resolveRcb (parseRcb b) (some g.rcb)
            let t := if x ≠ 0 then { t0 with karg := x } else t0
            let child := newRegion p.nextId t (some g.id) (some e.c.id) die
            match p.refusal t with
            | some err => out (w.refuse child err) 3
            | none =>
              let q : Request := { die := die, region := child.id, entry := t.entry, arg := 0, seed := true,
                                   spawner := none, since := p.stamp }
              let u : State := { w with regions := p.regions ++ [child], nextId := p.nextId + 1, stamp := p.stamp + 1 }
              out ((u.placeRequest g.id st q).countChild g.id e.c.id) st)

/-- SPAWN_RING_DRAIN (R29): the head of a region's ring moves to its die's spawn queue when that has a free entry. -/
def execSpawnRingDrain (region : Nat) (s : State) : Host.Outcome State Fault Refusal :=
  .next (match s.region? region with
    | none => s
    | some g =>
      match g.spawnRing with
      | [] => s
      | q :: rest =>
        if (s.die q.die).spawnQ.length < Config.spawnQueueSize then
          (s.updDie q.die (fun d => { d with spawnQ := d.spawnQ ++ [q] })).updRegion region (fun x =>
            { x with spawnRing := rest, ssrh := (x.ssrh + 1) % 2 ^ 32 })
        else s)

/-! ### Lane tasks -/

/-- Records that a cluster's FIFO holds: those of a crew cast and not yet placed keep their entries (R36). -/
def Cluster.fifoCount (c : Cluster) : Nat := c.fifo.length + (c.casts.map (fun x => x.tasks.length)).sum

/-- Records of a group in a FIFO: of one region with one entry index (R36). -/
def Cluster.group (c : Cluster) (region : Nat) (entry : BitVec 32) : List LaneTask :=
  c.fifo.filter (fun t => t.region == region && t.entry == entry)

/-- Remove the first n records of a group. -/
def dropGroup (region : Nat) (entry : BitVec 32) : Nat → List LaneTask → List LaneTask
  | _, [] => []
  | 0, l => l
  | n + 1, t :: r =>
    if t.region = region ∧ t.entry = entry then dropGroup region entry n r else t :: dropGroup region entry (n + 1) r

/-- Cast the first records of a group, at most a crew's width, as a crew of n lanes (R36, R37); CNT changes by 1 - n
(R25). -/
def State.castGroup (s : State) (cluster region : Nat) (entry : BitVec 32) : State :=
  let g := ((s.cluster cluster).group region entry).take Config.creww
  if g.isEmpty then s
  else
    let x : Cast := { region := region, entry := entry, tasks := g, since := s.stamp }
    ({ s with stamp := s.stamp + 1 }.updCluster cluster (fun c =>
      { c with fifo := dropGroup region entry g.length c.fifo, casts := c.casts ++ [x] })).updRegion region (fun r =>
        { r with cnt := r.cnt + 1 - g.length })

/-- Cast a group once it holds a crew's width of records (R36). -/
def State.castFull (s : State) (cluster region : Nat) (entry : BitVec 32) : State :=
  if Config.creww ≤ ((s.cluster cluster).group region entry).length then s.castGroup cluster region entry else s

/-- A record enters a cluster's FIFO. -/
def State.fifoEnter (s : State) (cluster : Nat) (t : LaneTask) : State :=
  (s.updCluster cluster (fun c => { c with fifo := c.fifo ++ [{ t with cycle := s.cycles }] })).castFull
    cluster t.region t.entry

/-- Place a lane-task record (R34): the FIFO, the spill ring, or nowhere. -/
def State.placeTask (s : State) (t : LaneTask) : State × Bool :=
  match s.region? t.region with
  | none => (s, false)
  | some g =>
    if !g.cntRoom then (s, false)
    else if (s.cluster t.cluster).fifoCount < Config.laneFifoSize ∧
        !(g.laneRing.any (fun x => x.cluster == t.cluster)) then
      ((s.cntUp g.id 1).fifoEnter t.cluster t, true)
    else if g.rcb.ltrn ≠ 0 ∧ g.laneRing.length < 2 ^ g.rcb.ltrn then
      ((s.cntUp g.id 1).updRegion g.id (fun x =>
        { x with laneRing := x.laneRing ++ [t], ltrt := (x.ltrt + 1) % 2 ^ 32 }), true)
    else (s, false)

/-- The record that lane i pushes (R150). -/
def enqlTask (e : Env) (o : FieldsR) (i : Nat) : LaneTask :=
  { region := e.c.region, entry := (e.v.rs o.sa.toNat).setWidth 32,
    a1 := BitVec.ofNat 32 (srcElem e.v o 2 o.sb elem32 i 0), a2 := BitVec.ofNat 32 (srcElem e.v o 3 o.sc elem32 i 0),
    a3 := if o.bv = 1 ∧ o.bpos = 0 ∧ o.bs ≠ 63 then (e.v.rs o.bs.toNat).setWidth 32 else 0,
    cycle := e.s.cycles, cluster := clusterOf e.c.core }

/-- ENQL (R150): lanes push in ascending order; the mask's bits within EXM say whose record was accepted. -/
def execEnql (o : FieldsR) (s : State) : Host.Outcome State Fault Refusal :=
  runWord (.enql o) s (fun e =>
    let act := activeMask e.v e.p.side.exm o.pred
    let res := (maskLanes act).foldl (fun (acc : State × List Nat) i =>
      let q := acc.1.placeTask (enqlTask e o i)
      (q.1, if q.2 then i :: acc.2 else acc.2)) (e.s, [])
    .ok (res.1.updCrew e.r.crew (fun c => c.wkOn o.dst.toNat e.p.side.exm (maskOf (fun i => res.2.contains i)))))

/-- QFLUSH (R151). -/
def execQflush (s : State) : Host.Outcome State Fault Refusal :=
  runWord .qflush s (fun e =>
    let k := clusterOf e.c.core
    let es := (((e.s.cluster k).fifo.filter (fun t => t.region == e.c.region)).map (fun t => t.entry)).dedup
    .ok (es.foldl (fun u x => u.castGroup k e.c.region x) e.s))

/-- PARTIAL_CAST_TIMEOUT (R37): no record of the group has entered the FIFO for 2,048 cycles. -/
def execPartialCastTimeout (cluster region : Nat) (entry : BitVec 32) (s : State) :
    Host.Outcome State Fault Refusal :=
  .next (if ((s.cluster cluster).group region entry).all (fun t => decide (t.cycle + 2048 ≤ s.cycles)) then
    s.castGroup cluster region entry else s)

/-- Remove the first record of a cluster from a ring (R35). -/
def dropFirst (cluster : Nat) : List LaneTask → List LaneTask
  | [] => []
  | t :: r => if t.cluster = cluster then r else t :: dropFirst cluster r

/-- LANE_TASK_REFILL (R35): the first spilled record of a cluster returns to its FIFO. LTRH counts the records that have
left the ring, and the record's entry is free at once, also where older records of other clusters stay. DESIGN CHOICE
(log 93). -/
def execLaneTaskRefill (region cluster : Nat) (s : State) : Host.Outcome State Fault Refusal :=
  .next (match s.region? region with
    | none => s
    | some g =>
      match g.laneRing.find? (fun t => t.cluster == cluster) with
      | none => s
      | some t =>
        if (s.cluster cluster).fifoCount < Config.laneFifoSize then
          (s.updRegion region (fun x =>
            { x with laneRing := dropFirst cluster x.laneRing, ltrh := (x.ltrh + 1) % 2 ^ 32 })).fifoEnter cluster t
        else s)

/-! ### WAITSP -/

/-- WAITSP (R32, R152): with no child it is an acquire at package scope at once; else the crew is to be saved, and the
acquire comes with its restore. -/
def execWaitsp (s : State) : Host.Outcome State Fault Refusal :=
  runWord .waitsp s (fun e =>
    if e.c.children = 0 then .ok (e.s.refresh e.c.core)
    else .done ((e.leave .waitsp e.s e.n).updCrew e.r.crew (fun c => { c with state := .saving .waitsp })))

end Sys2Proof.Machine
end

