-- ==== Sys2Proof/Machine/Barriers.lean ====
section
/-! DEFINITION. Named barriers and the Snuffer (R49 to R52, R154, R155, R385), the step tree (R53, R54, R156), and EXIT, whose
last lane ends a crew for both (R146). -/

namespace Sys2Proof.Machine

/-- A barrier of a core, when it is bound (R49). -/
def State.barrier? (s : State) (core n : Nat) : Option Barrier := look n (s.core core).barriers
/-- Set a barrier of a core. -/
def State.setBarrier (s : State) (core n : Nat) (b : Barrier) : State :=
  s.updCore core (fun c => { c with barriers := put n b c.barriers })

/-- Does a wait name barrier n? -/
def Wait.onBarrier (w : Wait) (n : Nat) : Bool :=
  match w with
  | .barrier b _ => b == n
  | .entry b _ => b == n
  | _ => false

/-- The paths that wait on a barrier of a core, each once (R52, R104). -/
def State.waitersOf (s : State) (core n : Nat) : List PathRef :=
  ((s.crews.filter (fun c => c.core == core)).flatMap (fun c =>
    (c.allPaths.filter (fun q => q.2.wait.onBarrier n)).map (fun q => { crew := c.id, sel := q.1 }))).dedup

/-- The Snuffer's record at detection (R52). WAITING shows the slots of waiting crews that hold one. -/
def State.barrierRecord (s : State) (core n cause : Nat) (b : Option Barrier) : BarrierRec :=
  let waiting := (s.crews.filter (fun c => c.core == core && (match c.state with | .saved _ => false | _ => true) &&
      c.allPaths.any (fun q => q.2.wait.onBarrier n))).map (fun c => c.slotNo)
  let mask : BitVec 32 := BitVec.ofNat 32 (((waiting.dedup).map (fun k => 2 ^ k)).sum)
  match b with
  | none => { slate := s.slate, core := core, barrier := n, cause := cause, expect := 0, arrived := 0, waiting := mask,
              exited := 0, gen := 0 }
  | some b => { slate := s.slate, core := core, barrier := n, cause := cause, expect := b.expect, arrived := b.count,
                waiting := mask, exited := b.exited, gen := b.gen }

/-- A new generation (R49, R154): a count and timeout set for it apply now. -/
def Barrier.nextGen (b : Barrier) : Barrier :=
  let c := match b.next with | some x => { b with expect := x.1, timeout := x.2, next := none } | none => b
  { c with gen := b.gen + 1, count := 0, arrived := [], first := none, expired := false, exited := 0 }

/-- A wait of a path is over: a word that waited completes; an entry wait is met (R49, R104). -/
def State.endWait (s : State) (r : PathRef) : State :=
  match s.path? r with
  | none => s
  | some p =>
    match p.wait with
    | .entry _ _ => s.updPath r (fun x => { x with wait := .none })
    | _ => s.advance r

/-- A generation completes: every waiter continues (R49). -/
def State.completeGen (s : State) (core n : Nat) (b : Barrier) : State :=
  let ws := s.waitersOf core n
  ws.foldl (fun t r => t.endWait r) (s.setBarrier core n b.nextGen)

/-- The barrier trap of a path that waits (R349). -/
def Path.barrierTrap (p : Path) (n cause : Nat) (q : BarrierRec) : Trap :=
  { slate := q.slate, cls := 11, cause := cause, val := BitVec.ofNat 64 n, code := 0, word := p.idx,
    inst := if p.inside then p.words.getD p.idx 0 else p.hdr, resume := if p.inside then .after else .clause,
    batch := none, bar := some q }

/-- The trap of cause 1 or 2 in every crew that waits (R52): one for each of its paths that waits, so two where both peers of a split
crew wait at a WBAR. DESIGN CHOICE (log 143). -/
def State.trapWaiters (s : State) (ws : List PathRef) (n cause : Nat) (q : BarrierRec) : State :=
  ws.foldl (fun t r =>
    match t.path? r with
    | some p => t.takeTrap r (p.barrierTrap n cause q)
    | none => t) s

/-- Is a spawn request or lane-task record of a region queued, spilled or in a FIFO (R51)? The queued seed of a SPAWNR
counts for the child region, whose crew it will start. DESIGN CHOICE (log 72). -/
def State.queued (s : State) (region : Nat) : Bool :=
  s.dies.any (fun d => d.spawnQ.any (fun q => q.region == region)) ||
  s.regions.any (fun g => g.spawnRing.any (fun q => q.region == region)) ||
  (match s.region? region with | some g => !g.laneRing.isEmpty || g.seed.isSome | none => false) ||
  s.clusters.any (fun c => c.fifo.any (fun t => t.region == region) || c.casts.any (fun x => x.region == region))

/-- able (R51): the live crews of the region on the core that have not arrived in this generation. A crew ends when its
last lane exits (R13, R146), and EXIT judges its end at once. -/
def State.able (s : State) (core n : Nat) (b : Barrier) : Nat :=
  (s.crews.filter (fun c => c.core == core && c.region == b.region && c.live != 0 &&
    look n c.arrivals != some b.gen)).length

/-- Does the Snuffer find the count unreachable (R51)? A pending fault stops its evaluation (R385). -/
def State.unreachable (s : State) (core n : Nat) (b : Barrier) : Bool :=
  b.pending.isNone && decide (s.able core n b < b.expect - b.count) && !s.queued b.region

/-- A fault of cause 1 or 2 against a generation (R52, R349): the generation is abandoned, the waiters trap. -/
def State.barrierFault (s : State) (core n cause : Nat) (b : Barrier) : State :=
  let q := s.barrierRecord core n cause (some b)
  let ws := s.waitersOf core n
  (s.setBarrier core n b.nextGen).trapWaiters ws n cause q

/-- What an event that finds a bound barrier unreachable does where no crew waits (R385): the generation is abandoned and
the record held. -/
def State.holdFault (s : State) (core n : Nat) (b : Barrier) : State :=
  s.setBarrier core n { b.nextGen with pending := some (s.barrierRecord core n 1 (some b)) }

/-- Judge one bound barrier after an event on its core (R51): a fault goes to the crews that wait, else it is held. -/
def State.judgeBarrier (s : State) (core n : Nat) : State :=
  match s.barrier? core n with
  | none => s
  | some b =>
    if !s.unreachable core n b then s
    else if (s.waitersOf core n).isEmpty then s.holdFault core n b
    else s.barrierFault core n 1 b

/-- The barriers bound on a core. -/
def State.boundOn (s : State) (core : Nat) : List Nat := (s.core core).barriers.map (fun x => x.1)

/-- The barriers bound on a core that an event has still to judge; done are those it has judged. -/
def State.toJudge (s : State) (core : Nat) (done : List Nat) : List Nat := (s.boundOn core).filter (fun m => !done.contains m)

/-- The barrier among those still to be judged whose fault an arrival causes in the arriving crew (R52): bound to its region,
unreachable, and awaited by none. -/
def State.blamed (s : State) (core : Nat) (done : List Nat) (region : Nat) : Option (Nat × Barrier) :=
  (s.toJudge core done).findSome? (fun m =>
    match s.barrier? core m with
    | some b =>
      if b.region = region ∧ s.unreachable core m b ∧ (s.waitersOf core m).isEmpty then some (m, b) else none
    | none => none)

/-- After an arrival every bound barrier of the core that is still to be judged is judged, each once (R51; log 104). A fault that no
crew waits for is held as after a crew's end (R385), where the barrier is another region's or the arriving crew has a trap to take
already. DEDUCED (log 33). -/
def State.judgeOthers (s : State) (core : Nat) (done : List Nat) : State :=
  (s.toJudge core done).foldl (fun t m => t.judgeBarrier core m) s

/-- The end of a crew, when its last lane exits, is an event for every barrier bound on its core (R50, R51, R385); its
region's barriers note its slot (R52). -/
def State.judgeEnd (s : State) (c : Crew) : State :=
  (s.boundOn c.core).foldl (fun t m =>
    match t.barrier? c.core m with
    | none => t
    | some b =>
      (if b.region = c.region then t.setBarrier c.core m { b with exited := b.exited ||| (1#32 <<< c.slotNo) } else t)
        |>.judgeBarrier c.core m) s

/-! ### The instructions -/

/-- A barrier trap of the word at hand, with the detection slate of its record (R349, R52, R355). -/
def Env.barrierTrap (e : Env) (n cause : Nat) (q : BarrierRec) : Trap :=
  { e.mkTrap 11 cause (BitVec.ofNat 64 n) .after with slate := q.slate, bar := some q }

/-- What an arrival or a wait meets first: an unbound or foreign barrier, or a pending fault, is a trap (R49, R52,
R385). -/
def Env.barrierAt (e : Env) (n : Nat) : Except (State × Trap) Barrier :=
  match e.s.barrier? e.c.core n with
  | none => .error (e.s, e.barrierTrap n 4 (e.s.barrierRecord e.c.core n 4 none))
  | some b =>
    if b.region ≠ e.c.region then .error (e.s, e.barrierTrap n 3 (e.s.barrierRecord e.c.core n 3 (some b)))
    else match b.pending with
      | some q => .error (e.s.setBarrier e.c.core n { b with pending := none }, e.barrierTrap n q.cause q)
      | none => .ok b

/-- BARI (R154). -/
def execBari (o : FieldsI) (s : State) : Host.Outcome State Fault Refusal :=
  runWord (.bari o) s (fun e =>
    let n := fld o.imm 6 0
    let count := fld o.imm 13 8
    let t := e.v.rs o.sa.toNat
    match e.s.barrier? e.c.core n with
    | none =>
      .ok (e.s.setBarrier e.c.core n { region := e.c.region, expect := count, timeout := t, next := none, gen := 0,
                                        count := 0, arrived := [], first := none, expired := false, exited := 0,
                                        pending := none })
    | some b =>
      if b.region ≠ e.c.region then .trap e.s (e.barrierTrap n 3 (e.s.barrierRecord e.c.core n 3 (some b)))
      else if b.count = 0 then
        .ok (e.s.setBarrier e.c.core n { b with expect := count, timeout := t, next := none })
      else .ok (e.s.setBarrier e.c.core n { b with next := some (count, t) }))

/-- An arrival is counted (R49, R155). -/
def State.countArrival (s : State) (core n : Nat) (b : Barrier) (crew : Nat) : State × Barrier :=
  let b2 : Barrier := { b with count := b.count + 1, arrived := b.arrived ++ [crew],
                               first := some (b.first.getD s.now) }
  ((s.setBarrier core n b2).updCrew crew (fun c => { c with arrivals := put n b.gen c.arrivals }), b2)

/-- How an arrival's word ends (R51, R52): the barriers of the core that are still to be judged are judged, and where one of the
crew's region is unreachable with none waiting, the arriving crew takes that fault after the word. -/
def Env.arrived (e : Env) (done : List Nat) (s : State) : Res :=
  match s.blamed e.c.core done e.c.region with
  | none => .ok (s.judgeOthers e.c.core done)
  | some x =>
    .trap ((s.setBarrier e.c.core x.1 x.2.nextGen).judgeOthers e.c.core (x.1 :: done))
      (e.barrierTrap x.1 1 (s.barrierRecord e.c.core x.1 1 (some x.2)))

/-- A crew begins to wait in a generation (R51, R155): an expired one faults at once, before its count is judged: DESIGN
CHOICE (log 72); then an unreachable one; else the crew waits and the other barriers are judged. Where its arrival makes another
barrier of its region, which no crew awaits, fault in it, the arrival counts, the wait is dropped and the trap resumes after the
word. DESIGN CHOICE (log 142). -/
def Env.waitIn (e : Env) (n : Nat) (s : State) (b : Barrier) : Res :=
  let core := e.c.core
  let t := s.updPath e.r (fun p => { p with wait := .barrier n b.gen })
  if b.expired then .done ((t.barrierFault core n 2 b).judgeOthers core [n])
  else if t.unreachable core n b then .done ((t.barrierFault core n 1 b).judgeOthers core [n])
  else
    match s.blamed core [n] e.c.region with
    | none => .done (t.judgeOthers core [n])
    | some _ => e.arrived [n] s

/-- An arrival by BARA or BARS (R49, R51, R155). Where it completes the generation, the new one is judged after it, as every bound
barrier is. -/
def arriveAt (n : Nat) (wait : Bool) (e : Env) : Res :=
  let core := e.c.core
  match e.barrierAt n with
  | .error x => .trap x.1 x.2
  | .ok b =>
    if look n e.c.arrivals = some b.gen then
      .trap e.s (e.barrierTrap n 5 (e.s.barrierRecord core n 5 (some b)))
    else
      let q := e.s.countArrival core n b e.c.id
      let s1 := q.1
      let b1 := q.2
      if b1.count = b1.expect then e.arrived [] (s1.completeGen core n b1)
      else if wait then e.waitIn n s1 b1
      else if s1.unreachable core n b1 then
        if (s1.waitersOf core n).isEmpty then
          .trap ((s1.setBarrier core n b1.nextGen).judgeOthers core [n])
            (e.barrierTrap n 1 (s1.barrierRecord core n 1 (some b1)))
        else e.arrived [n] (s1.barrierFault core n 1 b1)
      else e.arrived [n] s1

/-- BARA arrives and does not wait; BARS arrives and waits (R155). -/
def execBara (o : FieldsI) (s : State) : Host.Outcome State Fault Refusal :=
  runWord (.bara o) s (arriveAt o.imm.toNat false)
def execBars (o : FieldsI) (s : State) : Host.Outcome State Fault Refusal :=
  runWord (.bars o) s (arriveAt o.imm.toNat true)

/-- BARW waits until the generation of the crew's latest arrival, or the current one, has completed (R155). -/
def execBarw (o : FieldsI) (s : State) : Host.Outcome State Fault Refusal :=
  runWord (.barw o) s (fun e =>
    let n := o.imm.toNat
    match e.barrierAt n with
    | .error x => .trap x.1 x.2
    | .ok b =>
      if (match look n e.c.arrivals with | some g => decide (g < b.gen) | none => false) then .ok e.s
      else
        let t := e.s.updPath e.r (fun p => { p with wait := .barrier n b.gen })
        if b.expired then .done (t.barrierFault e.c.core n 2 b) else .done t)

/-- BARRIER_TIMEOUT (R51): the fault comes at the expiry when a crew waits, else when one first begins to wait. -/
def execBarrierTimeout (core barrier : Nat) (s : State) : Host.Outcome State Fault Refusal :=
  .next (match s.barrier? core barrier with
    | none => s
    | some b =>
      match b.first with
      | none => s
      | some t0 =>
        if b.timeout = 0 ∨ b.pending.isSome ∨ s.now < t0 + b.timeout.toNat then s
        else if (s.waitersOf core barrier).isEmpty then s.setBarrier core barrier { b with expired := true }
        else s.barrierFault core barrier 2 b)

/-! ### Steps (R53, R54, R156) -/

/-- The step group of a region: its STEPG, or the region alone when that is 0 (R53). -/
def Region.stepKey (g : Region) : Nat := if g.rcb.stepg = 0 then 65536 + g.id else g.rcb.stepg

/-- The step group of a crew. -/
def State.stepKey (s : State) (c : Crew) : Nat :=
  match s.region? c.region with
  | some g => g.stepKey
  | none => 65536 + c.region

/-- The live participants of a step group (R53). -/
def State.participants (s : State) (key : Nat) : List Crew :=
  s.crews.filter (fun c => s.stepKey c == key && c.live != 0)

/-- The step generation of a group. -/
def State.stepGen (s : State) (key : Nat) : Nat := (look key s.stepGens).getD 0

/-- Complete a step generation when every live participant has arrived (R53, R54): every core with a participant
publishes, then each refreshes, and the waiters continue. -/
def State.stepCheck (s : State) (key : Nat) : State :=
  let ps := s.participants key
  let g := s.stepGen key
  if ps.isEmpty || !ps.all (fun c => c.stepped == some g) then s
  else
    let cores := (ps.map (fun c => c.core)).dedup
    let t := cores.foldl (fun u k => u.refresh k) (cores.foldl (fun u k => u.publish k) s)
    let ws := (ps.flatMap (fun c =>
      (c.allPaths.filter (fun q => q.2.wait == .step g)).map (fun q => ({ crew := c.id, sel := q.1 } : PathRef)))).dedup
    ws.foldl (fun u r => u.advance r) { t with stepGens := put key (g + 1) t.stepGens }

/-- STEP (R156). -/
def execStepw (s : State) : Host.Outcome State Fault Refusal :=
  runWord .stepw s (fun e =>
    let key := e.s.stepKey e.c
    let g := e.s.stepGen key
    let t := e.s.updCrew e.r.crew (fun c => { c with stepped := some g })
    .done ((t.updPath e.r (fun p => { p with wait := .step g })).stepCheck key))

/-! ### EXIT (R146) -/

/-- The end of a crew whose last lane has exited, for barriers and steps (R50, R51, R53). -/
def State.crewExit (s : State) (id : Nat) : State :=
  match s.crew? id with
  | none => s
  | some c => if c.live = 0 then (s.judgeEnd c).stepCheck (s.stepKey c) else s

/-- EXIT (R13, R146): a path with instructions that a pre-emption stopped comes to it when these have been issued again
(Spot.orders). When it ends the handler path, a trap held for the other peer is delivered (R354). -/
def execExit (o : FieldsI) (s : State) : Host.Outcome State Fault Refusal :=
  runWord (.exit o) s (fun e =>
    let x := e.p.side.exm &&& e.v.rk o.pred.toNat
    let u := e.launched (.exit o) e.s
    .done (((u.updCrew e.r.crew (fun c => c.exitLanes e.r.sel x e.n e.s.stamp)).deliverHeld e.r.crew).crewExit e.r.crew))

end Sys2Proof.Machine
end

