-- ==== Sys2Proof/Machine/Vector.lean ====
section
/-! DEFINITION. The lane-wise vector instructions: integer, floating point, special functions (R162 to R173). -/

namespace Sys2Proof.Machine

/-- What an instruction gives for one element: the pattern and the flags it raises. -/
abbrev LaneFn := Nat → Nat → Nat → Nat × Flags

/-- Results by lane and element, computed before any is written (R181). -/
def laneVals (el : Elem) (act : Mask) (g : Nat → Nat → Nat × Flags) : List (Nat × Nat × (Nat × Flags)) :=
  (maskLanes act).flatMap (fun i => (List.range el.count).map (fun j => (i, j, g i j)))

/-- Write the results of the active lanes and raise their flags (R164). -/
def Crew.putVals (c : Crew) (el : Elem) (num : Nat) (vs : List (Nat × Nat × (Nat × Flags))) : Crew :=
  (vs.foldl (fun d v => d.wrElem el.kind num v.1 el.bytes v.2.1 v.2.2.1) c).raise (orFlags (vs.map (fun v => v.2.2.2)))

/-- A vector result: g gives lane i, element j (R164). -/
def vecOut (e : Env) (el : Elem) (num : Nat) (pred : BitVec 3) (g : Nat → Nat → Nat × Flags) : Res :=
  .ok (e.s.updCrew e.r.crew (fun c => c.putVals el num (laneVals el (activeMask e.v e.p.side.exm pred) g)))

/-- The lane-wise effect of R164 for a function of the three sources. -/
def laneWise (o : FieldsR) (el : Elem) (f : LaneFn) (e : Env) : Res :=
  vecOut e el o.dst.toNat o.pred (fun i j =>
    f (srcElem e.v o 1 o.sa el i j) (srcElem e.v o 2 o.sb el i j) (srcElem e.v o 3 o.sc el i j))

/-! ### Integer (R167 to R169) -/

/-- An integer row of R167: exact, then wrapped to n bits, or saturated. -/
def intFn (ty : BitVec 3) (sat : Bool) (f : Nat → Bool → Int → Int → Int → Int) : LaneFn := fun a b c =>
  let n := (intElem ty).bits
  let sg := tySigned ty
  let x := f n sg (intOf sg n a) (intOf sg n b) (intOf sg n c)
  (wrapNat n (if sat then satInt x (intLo sg n) (intHi sg n) else x), 0)

/-- A vector integer instruction: MOD [0] is .sat (R167). -/
def vint (o : FieldsR) (f : Nat → Bool → Int → Int → Int → Int) (e : Env) : Res :=
  laneWise o (intElem o.ty) (intFn o.ty (o.md == 1) f) e

/-- The rows of R167 that the compact operations share. -/
def rowAdd (_ : Nat) (_ : Bool) (a b _ : Int) : Int := a + b
def rowSub (_ : Nat) (_ : Bool) (a b _ : Int) : Int := a - b
def rowMul (_ : Nat) (_ : Bool) (a b _ : Int) : Int := a * b
def rowMad (_ : Nat) (_ : Bool) (a b c : Int) : Int := a * b + c
def rowAnd (n : Nat) (_ : Bool) (a b _ : Int) : Int := bitwise n (· &&& ·) a b
def rowOr (n : Nat) (_ : Bool) (a b _ : Int) : Int := bitwise n (· ||| ·) a b
def rowXor (n : Nat) (_ : Bool) (a b _ : Int) : Int := bitwise n (· ^^^ ·) a b
def rowNot (_ : Nat) (_ : Bool) (a _ _ : Int) : Int := -a - 1
def rowShl (n : Nat) (_ : Bool) (a b _ : Int) : Int := a * (2 ^ (wrapNat n b % n) : Nat)
def rowShr (n : Nat) (_ : Bool) (a b _ : Int) : Int := Int.ofNat (wrapNat n a / 2 ^ (wrapNat n b % n))
def rowSar (n : Nat) (_ : Bool) (a b _ : Int) : Int := sextInt n (wrapNat n a) / (2 ^ (wrapNat n b % n) : Nat)
def rowMin (_ : Nat) (_ : Bool) (a b _ : Int) : Int := if a < b then a else b
def rowMax (_ : Nat) (_ : Bool) (a b _ : Int) : Int := if a < b then b else a
def rowAbs (_ : Nat) (sg : Bool) (a _ _ : Int) : Int := if sg then Int.ofNat a.natAbs else a
def rowMov (_ : Nat) (_ : Bool) (a _ _ : Int) : Int := a

def execVadd (o : FieldsR) (s : State) : Host.Outcome State Fault Refusal :=
  runWord (.vadd o) s (vint o rowAdd)
def execVsub (o : FieldsR) (s : State) : Host.Outcome State Fault Refusal :=
  runWord (.vsub o) s (vint o rowSub)
def execVmul (o : FieldsR) (s : State) : Host.Outcome State Fault Refusal :=
  runWord (.vmul o) s (vint o rowMul)
def execVmad (o : FieldsR) (s : State) : Host.Outcome State Fault Refusal :=
  runWord (.vmad o) s (vint o rowMad)
def execVand (o : FieldsR) (s : State) : Host.Outcome State Fault Refusal :=
  runWord (.vand o) s (vint o rowAnd)
def execVor (o : FieldsR) (s : State) : Host.Outcome State Fault Refusal :=
  runWord (.vor o) s (vint o rowOr)
def execVxor (o : FieldsR) (s : State) : Host.Outcome State Fault Refusal :=
  runWord (.vxor o) s (vint o rowXor)
def execVnot (o : FieldsR) (s : State) : Host.Outcome State Fault Refusal :=
  runWord (.vnot o) s (vint o rowNot)
def execVshl (o : FieldsR) (s : State) : Host.Outcome State Fault Refusal :=
  runWord (.vshl o) s (vint o rowShl)
def execVshr (o : FieldsR) (s : State) : Host.Outcome State Fault Refusal :=
  runWord (.vshr o) s (vint o rowShr)
def execVsar (o : FieldsR) (s : State) : Host.Outcome State Fault Refusal :=
  runWord (.vsar o) s (vint o rowSar)
def execVmin (o : FieldsR) (s : State) : Host.Outcome State Fault Refusal :=
  runWord (.vmin o) s (vint o rowMin)
def execVmax (o : FieldsR) (s : State) : Host.Outcome State Fault Refusal :=
  runWord (.vmax o) s (vint o rowMax)
def execVabs (o : FieldsR) (s : State) : Host.Outcome State Fault Refusal :=
  runWord (.vabs o) s (vint o rowAbs)
def execVmov (o : FieldsR) (s : State) : Host.Outcome State Fault Refusal :=
  runWord (.vmov o) s (vint o rowMov)
def execVmulh (o : FieldsR) (s : State) : Host.Outcome State Fault Refusal :=
  runWord (.vmulh o) s (vint o (fun n _ a b _ => a * b / (2 ^ n : Nat)))
def execVclz (o : FieldsR) (s : State) : Host.Outcome State Fault Refusal :=
  runWord (.vclz o) s (vint o (fun n _ a _ _ => Int.ofNat (leadingZeros n (wrapNat n a))))
def execVpopc (o : FieldsR) (s : State) : Host.Outcome State Fault Refusal :=
  runWord (.vpopc o) s (vint o (fun n _ a _ _ => Int.ofNat (popcount n (wrapNat n a))))
def execVbfe (o : FieldsR) (s : State) : Host.Outcome State Fault Refusal :=
  runWord (.vbfe o) s (vint o (fun n sg a b _ => bfe n sg a b))
def execVbfi (o : FieldsR) (s : State) : Host.Outcome State Fault Refusal :=
  runWord (.vbfi o) s (vint o (fun n _ a b c => bfi n a b c))

/-- VCMP (R168): MOD [4:3] names the element that decides a lane's bit. -/
def execVcmp (o : FieldsR) (s : State) : Host.Outcome State Fault Refusal :=
  runWord (.vcmp o) s (fun e =>
    let el := intElem o.ty
    let sg := tySigned o.ty
    let j := fld o.md 4 3
    .ok (e.s.updCrew e.r.crew (fun c => c.wkOn o.dst.toNat (activeMask e.v e.p.side.exm o.pred) (maskOf (fun i =>
      intCond (fld o.md 2 0) (intOf sg el.bits (srcElem e.v o 1 o.sa el i j))
        (intOf sg el.bits (srcElem e.v o 2 o.sb el i j)))))))

/-- VSEL moves whole lanes (R168). -/
def execVsel (o : FieldsR) (s : State) : Host.Outcome State Fault Refusal :=
  runWord (.vsel o) s (fun e =>
    let el := intElem o.ty
    vecOut e el o.dst.toNat o.pred (fun i j =>
      (if (e.v.rk o.sa.toNat).getLsbD i then srcElem e.v o 2 o.sb el i j else srcElem e.v o 3 o.sc el i j, 0)))

/-- VMOVS (R169). -/
def execVmovs (o : FieldsI) (s : State) : Host.Outcome State Fault Refusal :=
  runWord (.vmovs o) s (fun e =>
    let el := intElem o.ty
    vecOut e el o.dst.toNat o.pred (fun _ _ =>
      (if o.ty = 6 then wrapNat 64 (sextInt 32 o.imm.toNat) else o.imm.toNat % 2 ^ el.bits, 0)))

/-! ### Floating point (R170 to R172) -/

/-- A floating-point instruction of R170. -/
def vfp (o : FieldsR) (f : Fmt → Nat → LaneFn) (e : Env) : Res :=
  laneWise o (fpElem o.ty) (f (fpFmt o.ty) o.rm.toNat) e

/-- The rows of R170 that the compact operations share. -/
def rowFadd (f : Fmt) (m : Nat) : LaneFn := fun a b _ => f.finish m (FVal.add m (f.decode a) (f.decode b))
def rowFsub (f : Fmt) (m : Nat) : LaneFn := fun a b _ => f.finish m (FVal.add m (f.decode a) (f.decode b).neg)
def rowFmul (f : Fmt) (m : Nat) : LaneFn := fun a b _ => f.finish m (FVal.mul (f.decode a) (f.decode b))
def rowFma (f : Fmt) (m : Nat) : LaneFn :=
  fun a b c => f.finish m (FVal.fma m (f.decode a) (f.decode b) (f.decode c))
def rowFmin (f : Fmt) (_ : Nat) : LaneFn := fun a b _ => f.minmax true a b
def rowFmax (f : Fmt) (_ : Nat) : LaneFn := fun a b _ => f.minmax false a b
def rowFabs (f : Fmt) (_ : Nat) : LaneFn := fun a _ _ => fpSign f false a
def rowFneg (f : Fmt) (_ : Nat) : LaneFn := fun a _ _ => fpSign f true a

def execVfadd (o : FieldsR) (s : State) : Host.Outcome State Fault Refusal :=
  runWord (.vfadd o) s (vfp o rowFadd)
def execVfsub (o : FieldsR) (s : State) : Host.Outcome State Fault Refusal :=
  runWord (.vfsub o) s (vfp o rowFsub)
def execVfmul (o : FieldsR) (s : State) : Host.Outcome State Fault Refusal :=
  runWord (.vfmul o) s (vfp o rowFmul)
def execVfma (o : FieldsR) (s : State) : Host.Outcome State Fault Refusal :=
  runWord (.vfma o) s (vfp o rowFma)
def execVfmin (o : FieldsR) (s : State) : Host.Outcome State Fault Refusal :=
  runWord (.vfmin o) s (vfp o rowFmin)
def execVfmax (o : FieldsR) (s : State) : Host.Outcome State Fault Refusal :=
  runWord (.vfmax o) s (vfp o rowFmax)
def execVfabs (o : FieldsR) (s : State) : Host.Outcome State Fault Refusal :=
  runWord (.vfabs o) s (vfp o rowFabs)
def execVfneg (o : FieldsR) (s : State) : Host.Outcome State Fault Refusal :=
  runWord (.vfneg o) s (vfp o rowFneg)
/-- VFRND (R170): MOD [0] is .x. -/
def execVfrnd (o : FieldsR) (s : State) : Host.Outcome State Fault Refusal :=
  runWord (.vfrnd o) s (vfp o (fun f m a _ _ => fpRound f m (o.md == 1) a))
/-- VFCLS writes the class as an integer of the element (R172). -/
def execVfcls (o : FieldsR) (s : State) : Host.Outcome State Fault Refusal :=
  runWord (.vfcls o) s (vfp o (fun f _ a _ _ => (fpClass f a, 0)))

/-- VFCMP (R171): a signalling NaN operand raises NV. -/
def execVfcmp (o : FieldsR) (s : State) : Host.Outcome State Fault Refusal :=
  runWord (.vfcmp o) s (fun e =>
    let el := fpElem o.ty
    let f := fpFmt o.ty
    let j := fld o.md 4 3
    let act := activeMask e.v e.p.side.exm o.pred
    let x (i : Nat) := f.decode (srcElem e.v o 1 o.sa el i j)
    let y (i : Nat) := f.decode (srcElem e.v o 2 o.sb el i j)
    .ok (e.s.updCrew e.r.crew (fun c =>
      (c.wkOn o.dst.toNat act (maskOf (fun i => fpCond (fld o.md 2 0) (x i) (y i)))).raise
        (orFlags ((maskLanes act).map (fun i => nvIf ((x i).isSig || (y i).isSig)))))))

/-! ### Special functions (R173) -/

/-- A special function of FP32. -/
def vspec (o : FieldsR) (f : Nat → FVal → Nat × Flags) (e : Env) : Res :=
  laneWise o elem32 (fun a _ _ => f o.rm.toNat (fp32.decode a)) e

def execVrcp (o : FieldsR) (s : State) : Host.Outcome State Fault Refusal :=
  runWord (.vrcp o) s (vspec o rcpF)
def execVrsq (o : FieldsR) (s : State) : Host.Outcome State Fault Refusal :=
  runWord (.vrsq o) s (vspec o rsqF)
def execVsqrt (o : FieldsR) (s : State) : Host.Outcome State Fault Refusal :=
  runWord (.vsqrt o) s (vspec o sqrtF)
def execVexp2 (o : FieldsR) (s : State) : Host.Outcome State Fault Refusal :=
  runWord (.vexp2 o) s (vspec o exp2F)
def execVlog2 (o : FieldsR) (s : State) : Host.Outcome State Fault Refusal :=
  runWord (.vlog2 o) s (vspec o log2F)
def execVsin (o : FieldsR) (s : State) : Host.Outcome State Fault Refusal :=
  runWord (.vsin o) s (vspec o (trigF false))
def execVcos (o : FieldsR) (s : State) : Host.Outcome State Fault Refusal :=
  runWord (.vcos o) s (vspec o (trigF true))

end Sys2Proof.Machine
end

