-- ==== Sys2Proof/Machine/Memory.lean ====
section
/-! DEFINITION. Loads, stores, atomics, fences, pins and cluster banks (R189 to R194, R197, R203 to R206, R220 to R232). -/

namespace Sys2Proof.Machine

/-! ### Shared by every access -/

/-- An access of the word at hand to a list of byte addresses, by column lines or by row lines: a fault, or the places of the
bytes in a state that the access leaves (R196, R220, R361, R363). -/
def Env.accessBy (e : Env) (col : Bool) (k : AccKind) (sys : Bool) (vas : List Nat) (f : State → List Loc → Res) : Res :=
  match e.s.locs e.c.core e.c.region k sys vas with
  | .error x => .mem e.s x
  | .ok ls => f (e.s.tlbFillBy e.c.core col vas) ls

/-- The same by row lines. -/
def Env.access (e : Env) (k : AccKind) (sys : Bool) (vas : List Nat) (f : State → List Loc → Res) : Res :=
  e.accessBy false k sys vas f

/-- The queue that an aligned 8-byte store reaches, when its bytes are a wake register's (R371). -/
def wakeTarget (a n : Nat) (ls : List Loc) : Option (Nat × Nat) :=
  if n = 8 ∧ a % 8 = 0 then (wakePart ls).head? else none

/-- Bytes of a size code (R222). -/
def sizeOf (md : BitVec 5) : Nat := 8 / 2 ^ (md.toNat % 4)
/-- A loaded value extended to 64 bits (R222). -/
def loadExt (md : BitVec 5) (x : Nat) : Word :=
  if 5 ≤ md.toNat then wordOf (sextInt (8 * sizeOf md) x) else BitVec.ofNat 64 x

/-! ### Scalar accesses (R222) -/

/-- LD. -/
def execLd (o : FieldsM) (s : State) : Host.Outcome State Fault Refusal :=
  runWord (.ld o) s (fun e =>
    e.access .load false (span (addrA e.v o).toNat (sizeOf o.md)) (fun t ls =>
      .ok ((t.wakeErrors ls).ws e.r.crew o.dst.toNat (loadExt o.md (ofBytes (t.plainLoad e.c.core ls))))))
/-- ST: an aligned 8-byte store to a wake register is a wake store (R371). -/
def execSt (o : FieldsM) (s : State) : Host.Outcome State Fault Refusal :=
  runWord (.st o) s (fun e =>
    let a := (addrA e.v o).toNat
    let n := sizeOf o.md
    let x := e.v.rs o.dst.toNat
    e.access .store false (span a n) (fun t ls =>
      match wakeTarget a n ls with
      | some q => .ok (t.wakeBy e.c.core q.1 q.2 x)
      | none => .ok (t.plainStore e.c.core (ls.zip (toBytes n x.toNat)))))
/-- LDA: a synchronising load; at system scope it passes a host-owned page (R204, R219). -/
def execLda (o : FieldsM) (s : State) : Host.Outcome State Fault Refusal :=
  runWord (.lda o) s (fun e =>
    let a := addrA e.v o
    let n := sizeOf o.md
    if a.toNat % n ≠ 0 then .trap e.s (e.misaligned a)
    else e.access .load (o.scope == 6) (span a.toNat n) (fun t ls =>
      let q := t.sync e.c.core (wideScope o.scope) false (isAcquire o.ord) ls (fun _ => none)
      .ok ((q.1.wakeErrors ls).ws e.r.crew o.dst.toNat (loadExt o.md q.2))))
/-- STL: a synchronising store (R204, R219, R371). -/
def execStl (o : FieldsM) (s : State) : Host.Outcome State Fault Refusal :=
  runWord (.stl o) s (fun e =>
    let a := addrA e.v o
    let n := sizeOf o.md
    let x := e.v.rs o.dst.toNat
    if a.toNat % n ≠ 0 then .trap e.s (e.misaligned a)
    else e.access .store (o.scope == 6) (span a.toNat n) (fun t ls =>
      match wakeTarget a.toNat n ls with
      | some q => .ok (t.wakeBy e.c.core q.1 q.2 x)
      | none =>
        .ok ((t.sync e.c.core (wideScope o.scope) (isRelease o.ord) false ls (fun _ => some x.toNat)).1.wakeErrors ls)))

/-! ### Atomics (R223) -/

/-- Bytes of an atomic type. -/
def atomBytes (ty : BitVec 3) : Nat := if ty = 0 ∨ ty = 1 ∨ ty = 4 then 8 else 4
/-- Is an atomic type signed? -/
def atomSigned (ty : BitVec 3) : Bool := ty == 0 || ty == 2

/-- The new value of an atomic: op on the old value and x, as n-bit patterns (R223). -/
def atomNew (ty : BitVec 3) (op : Nat) (old x : Nat) : Nat :=
  let n := 8 * atomBytes ty
  let sg := atomSigned ty
  let a := intOf sg n old
  let b := intOf sg n x
  if op = 0 then wrapNat n (a + b)
  else if op = 1 then wrapNat n (a - b)
  else if op = 2 then wrapNat n (if a < b then a else b)
  else if op = 3 then wrapNat n (if a < b then b else a)
  else if op = 4 then wrapNat n (bitwise n (· &&& ·) a b)
  else if op = 5 then wrapNat n (bitwise n (· ||| ·) a b)
  else if op = 6 then wrapNat n (bitwise n (· ^^^ ·) a b)
  else if op = 7 then x % 2 ^ n
  else
    let f := if ty = 4 then fp64 else fp32
    (f.finish 0 (FVal.add 0 (f.decode old) (f.decode x))).1

/-- The old value of an atomic extended to 64 bits. -/
def atomExt (ty : BitVec 3) (old : Nat) : Word := wordOf (intOf (atomSigned ty) (8 * atomBytes ty) old)

/-- AT: one synchronising access; an 8-byte exchange with a wake register is a wake store and returns 0 (R371). -/
def execAt (o : FieldsM) (s : State) : Host.Outcome State Fault Refusal :=
  runWord (.at o) s (fun e =>
    let a := addrA e.v o
    let n := atomBytes o.ty
    let x := e.v.rs o.dst.toNat
    if a.toNat % n ≠ 0 then .trap e.s (e.misaligned a)
    else e.access .atomic (o.scope == 6) (span a.toNat n) (fun t ls =>
      match (if o.md = 7 then wakeTarget a.toNat n ls else none) with
      | some q =>
        let u := t.wakeBy e.c.core q.1 q.2 x
        .ok ((if wideScope o.scope && isAcquire o.ord then u.refresh e.c.core else u).ws e.r.crew o.dst.toNat 0)
      | none =>
        let q := t.sync e.c.core (wideScope o.scope) (isRelease o.ord) (isAcquire o.ord) ls
          (fun old => some (atomNew o.ty o.md.toNat old (x.toNat % 2 ^ (8 * n))))
        .ok ((q.1.wakeErrors ls).ws e.r.crew o.dst.toNat (atomExt o.ty q.2))))

/-- ACAS (R223): one that does not write has only the acquire part of its order. -/
def execAcas (o : FieldsM) (s : State) : Host.Outcome State Fault Refusal :=
  runWord (.acas o) s (fun e =>
    let a := addrB e.v o
    let n := atomBytes o.ty
    let x := (e.v.rs o.dst.toNat).toNat % 2 ^ (8 * n)
    let c := (e.v.rs (xrOf o)).toNat % 2 ^ (8 * n)
    if a.toNat % n ≠ 0 then .trap e.s (e.misaligned a)
    else e.access .atomic (o.scope == 6) (span a.toNat n) (fun t ls =>
      let w := wideScope o.scope
      let hit : Bool := (t.sync e.c.core w false false ls (fun _ => none)).2 == c
      let q := t.sync e.c.core w (isRelease o.ord && hit) (isAcquire o.ord) ls
        (fun old => if old = c then some x else none)
      .ok ((q.1.wakeErrors ls).ws e.r.crew o.dst.toNat (atomExt o.ty q.2))))

/-- The bytes of lane i of a vector atomic, and of all lanes in order. -/
def vatSpan (e : Env) (o : FieldsM) (i : Nat) : List Nat := span (laneAddr e.v o i).toNat (atomBytes o.ty)

/-- The lanes of VAT in ascending order (R203, R227): each is one synchronising access; old values by lane. -/
def vatLanes (e : Env) (o : FieldsM) : List (Nat × List Loc) → State → List (Nat × Nat) → State × List (Nat × Nat)
  | [], s, acc => (s, acc)
  | (i, ls) :: r, s, acc =>
    let x := e.v.laneNat (atomKind o.ty) o.dst.toNat i
    let q := s.sync e.c.core (wideScope o.scope) false false ls (fun old => some (atomNew o.ty o.md.toNat old x))
    vatLanes e o r (q.1.wakeErrors ls) ((i, q.2) :: acc)

/-- Cut a list into pieces of n. -/
def pieces {α : Type} (n : Nat) : Nat → List α → List (List α)
  | 0, _ => []
  | k + 1, l => l.take n :: pieces n k (l.drop n)

/-- VAT (R227): every lane is checked and translated first; a release comes before the first lane, an acquire after the
last. Of several misaligned lanes the lowest is named. DESIGN CHOICE (log 26). With no active lane it neither publishes nor
refreshes, whatever its ORD. DESIGN CHOICE (log 129). -/
def execVat (o : FieldsM) (s : State) : Host.Outcome State Fault Refusal :=
  runWord (.vat o) s (fun e =>
    let ls := maskLanes (activeMask e.v e.p.side.exm o.pred)
    if ls.isEmpty then .ok e.s
    else
      match ls.find? (fun i => (laneAddr e.v o i).toNat % atomBytes o.ty != 0) with
      | some i => .trap e.s (e.misaligned (laneAddr e.v o i))
      | none =>
        e.access .atomic false (ls.flatMap (vatSpan e o)) (fun t locs =>
          let w := wideScope o.scope
          let t1 := if w && isRelease o.ord then t.publish e.c.core else t
          let q := vatLanes e o (ls.zip (pieces (atomBytes o.ty) ls.length locs)) t1 []
          let t2 := if w && isAcquire o.ord then q.1.refresh e.c.core else q.1
          .ok (t2.updCrew e.r.crew (fun c => q.2.foldl (fun d x =>
            d.wrNat (atomKind o.ty) o.dst.toNat (x.1 * (atomKind o.ty).laneBytes) (atomBytes o.ty) x.2) c))))

/-! ### Vector accesses (R224 to R226) -/

/-- Bytes of a lane of TYPE 0 or 6. -/
def laneLen (o : FieldsM) : Nat := (intKind o.ty).laneBytes

/-- m(k) (R224): the memory byte of byte k of the register. -/
def layout (md : BitVec 5) (a k : Nat) : Nat :=
  if md = 0 then (a + k) % 2 ^ 64
  else
    let e := 2 ^ (md.toNat - 1)
    let p := 32 / e
    let c := a % 32 / e + k / (32 * e)
    let t := k % (32 * e)
    (a - a % 32 + 1024 * (c / p) + 32 * (t / e) + c % p * e + t % e) % 2 ^ 64

/-- Is the start of a column access misaligned (R224)? -/
def layoutBad (md : BitVec 5) (a : Nat) : Bool :=
  md != 0 && (decide (32 ≤ a % 1024) || decide (a % 2 ^ (md.toNat - 1) ≠ 0))

/-- The register bytes of the active lanes, ascending. -/
def laneBytesOf (n : Nat) (ls : List Nat) : List Nat := ls.flatMap (fun i => (List.range n).map (fun j => i * n + j))

/-- Write bytes of a register, each at its place. -/
def Crew.putBytes (c : Crew) (k : Kind) (num : Nat) (ws : List (Nat × Byte)) : Crew :=
  ws.foldl (fun d w => d.wrBytes k num w.1 [w.2]) c

/-- VLD: every page of the active lanes is translated before a byte is read (R224). -/
def execVld (o : FieldsM) (s : State) : Host.Outcome State Fault Refusal :=
  runWord (.vld o) s (fun e =>
    let a := addrA e.v o
    let ks := laneBytesOf (laneLen o) (maskLanes (activeMask e.v e.p.side.exm o.pred))
    if ks.isEmpty then .ok e.s
    else if layoutBad o.md a.toNat then .trap e.s (e.misaligned a)
    else e.accessBy (o.md != 0) .load false (ks.map (layout o.md a.toNat)) (fun t ls =>
      .ok ((t.wakeErrors ls).updCrew e.r.crew (fun c =>
        c.putBytes (intKind o.ty) o.dst.toNat (ks.zip (t.plainLoad e.c.core ls))))))
/-- VST: on overlapping bytes the highest-numbered lane's are stored (R203, R224). -/
def execVst (o : FieldsM) (s : State) : Host.Outcome State Fault Refusal :=
  runWord (.vst o) s (fun e =>
    let a := addrA e.v o
    let ks := laneBytesOf (laneLen o) (maskLanes (activeMask e.v e.p.side.exm o.pred))
    if ks.isEmpty then .ok e.s
    else if layoutBad o.md a.toNat then .trap e.s (e.misaligned a)
    else e.accessBy (o.md != 0) .store false (ks.map (layout o.md a.toNat)) (fun t ls =>
      .ok (t.plainStore e.c.core (ls.zip (ks.map (fun k =>
        BitVec.ofNat 8 (e.v.rdNat (intKind o.ty) o.dst.toNat k 1)))))))
/-- VLDB (R225): one read, written to every active lane. -/
def execVldb (o : FieldsM) (s : State) : Host.Outcome State Fault Refusal :=
  runWord (.vldb o) s (fun e =>
    let act := activeMask e.v e.p.side.exm o.pred
    if act = 0 then .ok e.s
    else e.access .load false (span (addrA e.v o).toNat (laneLen o)) (fun t ls =>
      let x := ofBytes (t.plainLoad e.c.core ls)
      .ok ((t.wakeErrors ls).updCrew e.r.crew (fun c => c.putWhole (intKind o.ty) o.dst.toNat act (fun _ => x)))))

/-- The lanes of a gather in ascending order (R226): it stops at the first lane that faults. Lanes whose bytes are
written join the completed mask; the index is read from the register as it stood. -/
def gatherLanes (e : Env) (o : FieldsM) : List Nat → State → State × Option MemFault
  | [], s => (s, none)
  | i :: r, s =>
    let vas := span (laneAddr e.v o i).toNat (laneLen o)
    match s.locs e.c.core e.c.region .load false vas with
    | .error f => (s, some f)
    | .ok ls =>
      let x := ofBytes (s.plainLoad e.c.core ls)
      let t := ((s.tlbFill e.c.core vas).wakeErrors ls).updCrew e.r.crew (fun c =>
        ((c.putWhole (intKind o.ty) o.dst.toNat (1#64 <<< i) (fun _ => x)).dropOlds e.r.sel
          ((e.c.granulesOf (intKind o.ty) o.dst.toNat).map SbUnit.granule)).updPath e.r.sel (fun p =>
            { p with gather := p.gather ||| (1#64 <<< i), resolved := some e.v.views }))
      gatherLanes e o r t

/-- The lanes a gather still has to load. -/
def gatherLeft (e : Env) (o : FieldsM) : Mask := activeMask e.v e.p.side.exm o.pred &&& ~~~e.p.gather

/-- The lanes that a gather stopped by a pre-emption has loaded first (R226): a free choice. -/
def gatherStop (e : Env) (o : FieldsM) : Mask := gatherLeft e o &&& BitVec.ofNat 64 (Config.freeChoice e.s.free)

/-- VLDG is resumable (R226, R351): a fault keeps the completed mask; while its crew is to be saved it may stop after some of
its lanes, where that leaves the rest of its clause free to run (R56, R99), and the engine records it. -/
def execVldg (o : FieldsM) (s : State) : Host.Outcome State Fault Refusal :=
  runWord (.vldg o) s (fun e =>
    let stop := e.c.saving && gatherStop e o != gatherLeft e o && e.c.stoppable e.r.sel e.p
    let q := gatherLanes e o (maskLanes (if stop then gatherStop e o else gatherLeft e o)) e.s
    match q.2 with
    | none => if stop then .done (q.1.record e.r) else .ok q.1
    | some f => .mem q.1 f)
/-- VSTS (R226): every active lane is translated before any is stored. -/
def execVsts (o : FieldsM) (s : State) : Host.Outcome State Fault Refusal :=
  runWord (.vsts o) s (fun e =>
    let is := maskLanes (activeMask e.v e.p.side.exm o.pred)
    if is.isEmpty then .ok e.s
    else e.access .store false (is.flatMap (fun i => span (laneAddr e.v o i).toNat (laneLen o))) (fun t ls =>
      .ok (t.plainStore e.c.core (ls.zip (is.flatMap (fun i =>
        toBytes (laneLen o) (e.v.laneNat (intKind o.ty) o.dst.toNat i)))))))

/-! ### Fences, prefetch and pins (R197, R228 to R230) -/

/-- What a fence does at a wide scope (R228). -/
def State.fenceAt (s : State) (core : Nat) (wide rel acq : Bool) : State :=
  let t := if wide && rel then s.publish core else s
  if wide && acq then t.refresh core else t

/-- PHASE is fence.pkg.ar (R228). -/
def execPhase (s : State) : Host.Outcome State Fault Refusal :=
  runWord .phase s (fun e => .ok (e.s.fenceAt e.c.core true true true))
/-- PREF never faults and never changes a value (R229). -/
def execPref (o : FieldsM) (s : State) : Host.Outcome State Fault Refusal :=
  runWord (.pref o) s (fun e => .ok e.s)

/-- The 1 KiB block of an address that a pin may name: none for an address not mapped, in a window, or host-owned; nor for
one in firmware space, which counts as not mapped. DESIGN CHOICE (log 107). -/
def State.pinBlock (s : State) (core va : Nat) : Option Nat :=
  if wakeBase ≤ va then none
  else match s.lookup core va with
    | .bad _ _ => none
    | .leaf e p =>
      if bit e 59 || (decide (firmwareBase ≤ p) && decide (p < firmwareBase + firmwareSize)) then none
      else some ((p + va % 4096) / 1024)

/-- The blocks pinned in the set of a block, each once (R197). -/
def State.pinnedSet (s : State) (b : Nat) : List Nat :=
  ((s.pins.map (fun p => p.1)).dedup).filter (fun x =>
    Config.llcSet x == Config.llcSet b && s.homeOf (x * 1024) == s.homeOf (b * 1024))

/-- LOCK's status for a block (R230). -/
def State.lockStatus (s : State) (g : Region) (b : Nat) : Nat :=
  if s.pins.contains (b, g.id) then 1
  else if g.rcb.lockq ≤ (s.pins.filter (fun p => p.2 == g.id)).length then 2
  else if !(s.pins.any (fun p => p.1 == b)) && decide (8 ≤ (s.pinnedSet b).length) then 3
  else 0

/-- LOCK and UNLK: the address, then the status and the pins. -/
def pinWord (o : FieldsM) (e : Env) (f : Region → Nat → Nat × List (Nat × Nat)) : Res :=
  let a := addrA e.v o
  if 2 ^ 57 ≤ a.toNat then .mem e.s (pageFault 3 a.toNat)
  else
    match e.s.pinBlock e.c.core a.toNat, e.s.region? e.c.region with
    | some b, some g =>
      let q := f g b
      .ok ({ e.s with pins := q.2 }.ws e.r.crew o.dst.toNat (BitVec.ofNat 64 q.1))
    | _, _ => .ok (e.s.ws e.r.crew o.dst.toNat 4)

/-- LOCK. -/
def execLock (o : FieldsM) (s : State) : Host.Outcome State Fault Refusal :=
  runWord (.lock o) s (fun e => pinWord o e (fun g b =>
    let st := e.s.lockStatus g b
    (st, if st = 0 then e.s.pins ++ [(b, g.id)] else e.s.pins)))
/-- UNLK. -/
def execUnlk (o : FieldsM) (s : State) : Host.Outcome State Fault Refusal :=
  runWord (.unlk o) s (fun e => pinWord o e (fun g b =>
    (if e.s.pins.contains (b, g.id) then 0 else 1, e.s.pins.filter (fun p => p != (b, g.id)))))

/-! ### Cluster banks (R189 to R194, R231, R232) -/

/-- The mode of a code of BNKCFG (R189). -/
def bankMode (md : BitVec 5) : BankMode := if md = 0 then .cache else if md = 1 then .scratch else .fifo

/-- BNKCFG's status (R231). -/
def bankStatus (bs : List Bank) (g : Region) (m : BankMode) (k : Nat) : Nat :=
  let b := bs.getD k Bank.reset
  if 15 < k then 3
  else if b.holder ≠ none ∧ b.holder ≠ some g.id then 2
  else if m ≠ .cache ∧ b.mode = .cache ∧ g.rcb.banks ≤ (bs.filter (fun x => x.holder == some g.id)).length then 1
  else 0

/-- A bank after a change of mode (R192): the contents are dropped, unless the mode was already the new one. -/
def Bank.change (b : Bank) (m : BankMode) (region : Nat) : Bank :=
  if b.mode = m then b
  else if m = .cache then Bank.reset
  else { mode := m, holder := some region, bytes := [], queue := [] }

/-- BNKCFG (R231). -/
def execBnkcfg (o : FieldsR) (s : State) : Host.Outcome State Fault Refusal :=
  runWord (.bnkcfg o) s (fun e =>
    match e.s.region? e.c.region with
    | none => .stall
    | some g =>
      let cl := clusterOf e.c.core
      let bs := (e.s.cluster cl).banks
      let k := (e.v.rs o.sa.toNat).toNat
      let st := bankStatus bs g (bankMode o.md) k
      let t := if st = 0 then e.s.updCluster cl (fun c =>
        { c with banks := setAt c.banks k ((bs.getD k Bank.reset).change (bankMode o.md) g.id) }) else e.s
      .ok (t.ws e.r.crew o.dst.toNat (BitVec.ofNat 64 st)))

/-- The bank that FPUT and FGET address, or their page fault (R190, R232). An address beyond 57 bits, which is outside the
aperture too, has the cause of R220. DESIGN CHOICE (log 108). A bank in cache mode has the fault of R190, not status MODE.
DESIGN CHOICE (log 130). -/
def Env.fifoBank (e : Env) (a : Word) : Except MemFault (Nat × Bank) :=
  let va := a.toNat
  if 2 ^ 57 ≤ va then .error (pageFault 3 va)
  else if va < apertureBase then .error (pageFault 2 va)
  else
    let k := (va - apertureBase) / 262144
    let b := (e.s.cluster (clusterOf e.c.core)).banks.getD k Bank.reset
    if b.mode = .cache then .error (pageFault 1 va)
    else if b.holder ≠ some e.c.region then .error (pageFault 2 va)
    else .ok (k, b)

/-- Set the queue of a FIFO bank. -/
def State.setFifo (s : State) (core k : Nat) (l : List Word) : State :=
  s.updCluster (clusterOf core) (fun c =>
    { c with banks := setAt c.banks k { c.banks.getD k Bank.reset with queue := l } })

/-- FPUT (R194, R232). -/
def execFput (o : FieldsM) (s : State) : Host.Outcome State Fault Refusal :=
  runWord (.fput o) s (fun e =>
    match e.fifoBank (addrA e.v o) with
    | .error f => .mem e.s f
    | .ok (k, b) =>
      let out (t : State) (st : Word) : Res := .ok (t.ws e.r.crew (o.dst.toNat + 1) st)
      if b.mode ≠ .fifo then out e.s 2
      else
        let t := if isRelease o.ord then e.s.publish e.c.core else e.s
        if Config.fifoBankSize ≤ b.queue.length then out t 1
        else out (t.setFifo e.c.core k (b.queue ++ [e.v.rs o.dst.toNat])) 0)
/-- FGET (R194, R232). -/
def execFget (o : FieldsM) (s : State) : Host.Outcome State Fault Refusal :=
  runWord (.fget o) s (fun e =>
    match e.fifoBank (addrA e.v o) with
    | .error f => .mem e.s f
    | .ok (k, b) =>
      let out (t : State) (x st : Word) : Res := .ok ((t.ws e.r.crew o.dst.toNat x).ws e.r.crew (o.dst.toNat + 1) st)
      if b.mode ≠ .fifo then out e.s 0 2
      else
        match b.queue with
        | [] => out e.s 0 1
        | x :: rest =>
          let t := e.s.setFifo e.c.core k rest
          out (if isAcquire o.ord then t.refresh e.c.core else t) x 0)

/-! ### WAITC (R233) -/

/-- One reading of the arrival counter: the value and the status with which the wait ends, if it does. -/
def waitcStatus (w : Nat) (target timeout : Word) (now t0 : Nat) (saving : Bool) : Option Nat :=
  if bit w 63 then some 2
  else if counterMeets w target then some 0
  else if timeout ≠ 0 ∧ t0 + timeout.toNat ≤ now then some 1
  else if saving then some 3
  else none

/-- The value of an arrival counter, read from G (R233) or from its bank. -/
def State.counterAt (s : State) (core : Nat) (l : Loc) : Nat :=
  match l with
  | .mem pa => Memory.readNat s.g pa 8
  | .bank b off => ofBytes ((List.range 8).map (fun j => s.bankByte core b (off + j)))
  | .wake _ _ => 0

/-- Write the results of WAITC, which its path reads from then on (R63, R238); status 0 or 2 is an acquire. -/
def State.waitcEnd (s : State) (r : PathRef) (core reg w st : Nat) : State :=
  let t := (s.setOwn r reg (BitVec.ofNat 64 w)).setOwn r (reg + 1) (BitVec.ofNat 64 st)
  if st = 0 ∨ st = 2 then t.refresh core else t

/-- WAITC. -/
def execWaitc (o : FieldsM) (s : State) : Host.Outcome State Fault Refusal :=
  runWord (.waitc o) s (fun e =>
    let a := addrA e.v o
    let d := o.dst.toNat
    let target := e.v.rs d
    let timeout := e.v.rs (d + 1)
    if a.toNat % 8 ≠ 0 then .trap e.s (e.misaligned a)
    else e.access .load false (span a.toNat 8) (fun t ls =>
      let l := ls.headD (.wake 0 0)
      let w := t.counterAt e.c.core l
      match waitcStatus w target timeout t.now t.now e.c.saving with
      | some st => .ok ((t.waitcEnd e.r e.c.core d w st).wakeErrors ls)
      | none => .wait (t.wakeErrors ls) (.waitc d a.toNat l target timeout t.slate none)))

/-- WAITC_TIMEOUT: a waiting WAITC ends on a value it has read, or reads its word again (R233). -/
def execWaitcTimeout (r : PathRef) (s : State) : Host.Outcome State Fault Refusal :=
  .next (match s.crew? r.crew with
    | none => s
    | some c =>
      match c.path? r.sel with
      | none => s
      | some p =>
        match p.wait with
        | .waitc reg _ l target timeout t0 got =>
          let w := match got with | some x => x.toNat | none => s.counterAt c.core l
          match waitcStatus w target timeout s.now t0.toNat c.saving with
          | some st => (s.waitcEnd r c.core reg w st).advance r
          | none => s
        | _ => s)

end Sys2Proof.Machine
end

