-- ==== Sys2Proof/Machine/Reel.lean ====
section
/-! DEFINITION. Entries of the page table as firmware reads and writes them (R361, R362), and the snapshot of the reel: the guard
of pages, and what the first store to one leads to (R382). -/

namespace Sys2Proof.Machine

/-! ### Entries of the page table (R361, R362) -/

/-- An entry of the table. -/
def State.entry (s : State) (a : Nat) : Nat := Memory.readNat s.g a 8

/-- Write an entry of the table. -/
def State.setEntry (s : State) (a e : Nat) : State := s.gWriteAt a (toBytes 8 e)

/-- Put bits of a word to one value. -/
def withBit (e k : Nat) (v : Bool) : Nat := if v then e ||| 2 ^ k else if bit e k then e - 2 ^ k else e

/-- Drop the translations of pages from every TLB (R363). -/
def State.tlbDrop (s : State) (f : Nat → Bool) : State :=
  { s with cores := s.cores.map (fun c => { c with tlb := c.tlb.filter (fun t => !f t.vpn) })
           clusters := s.clusters.map (fun c => { c with tlb := c.tlb.filter (fun t => !f t.vpn) }) }

/-- The leaf of an address with its page: entry address, entry, physical base, size. -/
def State.leafPage (s : State) (va : Nat) : Option (Nat × Nat × Nat × Nat) :=
  (leafAt s.g va 5 s.rootTable).map (fun q => (q.1, s.entry q.1, entryPA (s.entry q.1), leafSize q.2))

/-- The leaf entries that are changed together with that of an address: the 16 of its CONT group, which the table keeps alike, else
that one alone (R362). -/
def State.groupOf (s : State) (va : Nat) : List (Nat × Nat × Nat × Nat) :=
  match s.leafPage va with
  | none => []
  | some (a, e, pa, size) =>
    if size = 4096 ∧ bit e 57 = true then
      (List.range 16).map (fun j =>
        let b := a / 128 * 128 + 8 * j
        (b, s.entry b, entryPA (s.entry b), 4096))
    else [(a, e, pa, size)]

/-- Does a leaf that the host owns map a physical address (R217, R362)? -/
def State.hostOwns (s : State) (pa : Nat) : Bool :=
  (leavesOf s.g 5 s.rootTable).any (fun q =>
    let e := s.entry q.1
    bit e 59 && decide (entryPA e ≤ pa) && decide (pa < entryPA e + leafSize q.2))

/-! ### Snapshot of the reel (R382) -/

/-- The area of the reel has filled: capture stops (R382). -/
def State.reelFull (s : State) : State := { s with dbg := { s.dbg with active := false, full := true } }

/-- Write bytes into the reel area at REELBASE, after what it holds (R382); none when the area has no room. DESIGN CHOICE for
their place and order (log 49). -/
def State.reelPut (s : State) (b : List Byte) : Option State :=
  if s.dbg.reelSize.toNat < s.dbg.used + b.length then none
  else
    let t := s.gWriteAt (s.dbg.reelBase.toNat + s.dbg.used) b
    some { t with dbg := { t.dbg with used := t.dbg.used + b.length } }

/-- Guard a writable device leaf: W is cleared and REPL set. -/
def State.guardLeaf (s : State) (a : Nat) : State :=
  let e := s.entry a
  if bit e 4 && !bit e 7 then
    { s.setEntry a (withBit (withBit e 4 false) 1 true) with dbg := { s.dbg with guarded := s.dbg.guarded ++ [(a, e)] } }
  else s

/-- A guarded entry is as it stands now, but for W, which is set again, and REPL, which is what it was (R382): an owner bit that
has changed meanwhile stays (R218). -/
def State.unguard (s : State) (a : Nat) : State :=
  match look a s.dbg.guarded with
  | none => s
  | some e =>
    let t := s.setEntry a (withBit (withBit (s.entry a) 4 true) 1 (bit e 1))
    { t with dbg := { t.dbg with guarded := t.dbg.guarded.filter (fun q => q.1 != a) } }

/-- No entry is guarded any more. -/
def State.unguardAll (s : State) : State :=
  ((s.dbg.guarded.map (fun q => q.1)).foldl (fun t a => t.unguard a) s).tlbDrop (fun _ => true)

/-- Copy the old contents of a page into the reel area; a full area stops capture (R382). -/
def State.snapshot (s : State) (page : Nat) : State :=
  if !s.dbg.active || (look page s.dbg.pages).isSome then s
  else
    match s.reelPut (Memory.readBytes s.g (page * 4096) 4096) with
    | none => s.reelFull
    | some t =>
      { t with dbg := { t.dbg with pages := t.dbg.pages ++ [(page, s.g.filter (fun c => c.1 / 4096 == page))] } }

/-- Is an address in a page that the reel guards: its own leaf, or another of its CONT group, which may translate it (R362)? -/
def State.guardedAt (s : State) (va : Nat) : Bool := (s.groupOf va).any (fun l => (look l.1 s.dbg.guarded).isSome)

/-- Is a replayable fault one of a store to a guarded page, and not of a read of one or of its owner (R382)? -/
def State.guardFault (s : State) (f : MemFault) : Bool := f.replayable && f.lacksW && s.guardedAt f.va.toNat

/-- The pages that the leaves changed together with that of an address map: in a CONT group each of its entries may translate all
its addresses (R362). -/
def groupPages (ls : List (Nat × Nat × Nat × Nat)) : List Nat :=
  (ls.zipIdx.flatMap (fun q =>
    if ls.length = 1 then (List.range (q.1.2.2.2 / 4096)).map (fun i => q.1.2.2.1 / 4096 + i)
    else (List.range 16).map (fun i => q.1.2.2.1 / 4096 + i - q.2))).dedup

/-- The first store to a guarded page (R382): its contents are copied and its leaf is writable again, and so are the others of a
CONT group, so that these stay alike (R362). DEDUCED (log 138). -/
def State.reelFault (s : State) (va : Nat) : State :=
  if s.guardedAt va = false then s
  else
    let ls := s.groupOf va
    let t := (groupPages ls).foldl (fun t p => t.snapshot p) s
    let n := (ls.map (fun l => l.2.2.2 / 4096)).sum
    (ls.foldl (fun t l => t.unguard l.1) t).tlbDrop (fun vpn => vpn / n == va / 4096 / n)

/-- A write that is about to be made by an agent that firmware serves at once, rather than by one that waits on the fault: the
guarded pages that it meets are copied and made writable first, one after another. -/
def State.opened (s : State) (core region : Nat) (k : AccKind) (vas : List Nat) : Nat → State
  | 0 => s
  | n + 1 =>
    match s.locs core region k false vas with
    | .ok _ => s
    | .error f => if s.guardFault f then (s.reelFault f.va.toNat).opened core region k vas n else s

/-- The guarded pages of such a write, of at most as many pages as it has bytes, are open (R382). -/
def State.openFor (s : State) (core region : Nat) (k : AccKind) (vas : List Nat) : State :=
  s.opened core region k vas vas.length

end Sys2Proof.Machine
end

