-- ==== Sys2Proof/Machine/Incoming.lean ====
section
/-! DEFINITION. Transfers into this package (R309 to R311): their headers and records, the work of the engine, bit 63 of a
counter, the turns of ordered transfers, and the end of one that fails. -/

namespace Sys2Proof.Machine

/-- The descriptor, class and element type of a transfer (R305, R306). -/
def CopyKind.xfer : CopyKind → Option (FabDesc × XferClass × Option RedType)
  | .put c d => some (d, c, none)
  | .get o d => some (d, if o then .ord else .rel, none)
  | .red c t d => some (d, c, some t)
  | _ => none

/-- The header of a transfer of this package (R309, R312). -/
def State.headerOf (s : State) (c : Copy) (d : FabDesc) (cls : XferClass) (red : Option RedType) : XferHdr :=
  { id := c.id, src := s.pkgId, cls := cls, seq := c.seq, dst := d.dst, len := d.len, cnta := d.cnta, maska := d.maska,
    deadline := d.deadline, red := red, rank := d.rank, since := c.since }

/-- Work of the engine or the fetcher (R328), paid by a die: a message to send, or one that has arrived; each flit is paid for
first. -/
def State.addJob (s : State) (die : Nat) (out : Option (BitVec 10)) (flits : Nat) (m : Msg) : State :=
  { s with fab := { s.fab with jobs := s.fab.jobs ++ [{ id := s.nextId, die := die, left := flits, out := out, msg := m }] },
           nextId := s.nextId + 1 }

/-! ### Records of transfers into this package -/

/-- The key of a transfer into this package. -/
def inKey (src : BitVec 10) (id : Nat) : Nat := 2 ^ 40 + src.toNat + 1024 * id
def xferKey (h : XferHdr) : Nat := inKey h.src h.id
/-- The record of a transfer into this package. -/
def State.incoming? (s : State) (key : Nat) : Option Incoming := s.fab.incoming.find? (fun x => xferKey x.hdr == key)
/-- Change the record of a transfer into this package. -/
def State.updIncoming (s : State) (key : Nat) (f : Incoming → Incoming) : State :=
  { s with fab := { s.fab with incoming := s.fab.incoming.map (fun x => if xferKey x.hdr = key then f x else x) } }
/-- A new record, with nothing arrived. Its transfer timeout runs from its issue, whose tick comes with the header. DESIGN CHOICE
(log 137). -/
def newIncoming (h : XferHdr) : Incoming :=
  { hdr := h, pages := [], got := [], flits := [], accepted := h.cls != .lossy, hold := none, finished := false, failed := false,
    passed := false, since := h.since }
/-- Add a record. -/
def State.addIncoming (s : State) (x : Incoming) : State :=
  { s with fab := { s.fab with incoming := s.fab.incoming ++ [x] } }

/-- Has the transfer timeout of a transfer passed (R311)? The deadline of a lossy one takes its place (R312). -/
def Incoming.late (x : Incoming) (now : Nat) : Bool := x.hdr.cls != .lossy && decide (x.since + Config.replayBound < now)

/-! ### The turns of ordered transfers (R310) -/

/-- The next sequence number of an ordered transfer between a pair of packages (R310). -/
def seqOf (k : BitVec 10) : List (BitVec 10 × Nat) → Nat
  | [] => 0
  | (p, n) :: r => if p = k then n else seqOf k r
/-- Set a sequence number. -/
def setSeq (k : BitVec 10) (n : Nat) : List (BitVec 10 × Nat) → List (BitVec 10 × Nat)
  | [] => [(k, n)]
  | (p, m) :: r => if p = k then (k, n) :: r else (p, m) :: setSeq k n r

/-! ### The end of a transfer that fails (R311) -/

/-- Set bit 63 of a counter by an atomic OR on G (R311, R316), as a core's region or the engine reaches it. A page that can be
replayed is tried again; a counter that cannot be reached stays as it is. DESIGN CHOICE (log 74). -/
def State.flagAt (s0 : State) (core region : Nat) (va : Word) : State × Bool :=
  let s := s0.openFor core region .atomic (span va.toNat 8)
  match s.locs core region .atomic false (span va.toNat 8) with
  | .error f => (s, f.replayable)
  | .ok ls =>
    let old := ofBytes (ls.map (s.readLoc core true))
    ((s.directStore core (ls.zip (toBytes 8 (old ||| 2 ^ 63)))).agentTouch ls, false)

/-- Set bit 63 of a counter, or let the work wait for its page. -/
def State.flagOr (s : State) (core region : Nat) (va : Word) : State :=
  let q := s.flagAt core region va
  if q.2 then s.addJob 0 none 0 (.flag core region va) else q.1

/-- Set bit 63 of CNTA (R311). -/
def State.flagCounter (s : State) (cnta : Word) : State := if cnta = 0 then s else s.flagOr noCore 0 cnta

/-- Has the ordered transfer of a number ended before its turn? -/
def State.seqPassed (s : State) (src : BitVec 10) (n : Nat) : Bool :=
  s.fab.incoming.any (fun x => x.passed && x.hdr.src == src && x.hdr.seq == n)

/-- The first number from n on that has not ended before its turn. -/
def State.seqNext (s : State) (src : BitVec 10) : Nat → Nat → Nat
  | 0, n => n
  | fuel + 1, n => if s.seqPassed src n then s.seqNext src fuel (n + 1) else n

/-- An ordered transfer has ended (R310): in its turn, the next one that has not ended may take effect; before its turn, its
number is passed over when it comes. -/
def State.seqDone (s : State) (h : XferHdr) : State :=
  if h.cls ≠ .ord then s
  else if h.seq = seqOf h.src s.fab.seqIn then
    { s with fab := { s.fab with
        seqIn := setSeq h.src (s.seqNext h.src (s.fab.incoming.length + 1) (h.seq + 1)) s.fab.seqIn } }
  else s.updIncoming (xferKey h) (fun x => { x with passed := true })

/-- A transfer into this package ends without success (R311): bit 63 of CNTA, and nothing of it is performed any more. -/
def State.incomingEnd (s : State) (h : XferHdr) : State :=
  ((s.flagCounter h.cnta).updIncoming (xferKey h) (fun x =>
    { x with finished := true, failed := true, hold := none, pages := [], flits := [] })).seqDone h

/-- A transfer into this package whose source has failed ends (R311): bit 63 of CNTA is set, also where it had completed here
before, which is DEDUCED (log 139). A lossy transfer whose header was accepted completes at its deadline, with zeros for the
blocks that are not there (R312). -/
def State.cancelled (s : State) (h : XferHdr) : State :=
  let t := if (s.incoming? (xferKey h)).isSome then s else s.addIncoming (newIncoming h)
  match t.incoming? (xferKey h) with
  | none => t
  | some x =>
    if (x.accepted && x.hdr.cls == .lossy) || (x.finished && x.failed) then t
    else if x.finished then (t.flagCounter h.cnta).updIncoming (xferKey h) (fun y => { y with failed := true })
    else t.incomingEnd h

/-- Has a reliable transfer of this package into itself been performed whole, so that only its acknowledgement is on its way? -/
def State.performedHere (s : State) (c : Copy) : Bool :=
  (s.incoming? (inKey s.pkgId c.id)).any (fun x => x.hdr.cls != .lossy && x.finished && !x.failed)

end Sys2Proof.Machine
end

