-- ==== Sys2Proof/Machine/Copies.lean ====
section
/-! DEFINITION. Copies, the Dolly and copy batches (R210 to R216, R234 to R237, R328), and what a faulted batch leads to (R349,
R355, R386). -/

namespace Sys2Proof.Machine

/-! ### Batches (R212, R213) -/

/-- The copies of a batch of a crew. -/
def State.copiesOf (s : State) (crew serial : Nat) : List Copy :=
  s.copies.filter (fun c => c.crew == crew && c.serial == serial)

/-- Is a copy still in flight? -/
def Copy.running (c : Copy) : Bool :=
  match c.state with
  | .active | .held _ _ | .sent => true
  | .done | .faulted _ => false

/-- Have all copies of a batch completed or faulted? -/
def State.batchEnded (s : State) (crew serial : Nat) : Bool := (s.copiesOf crew serial).all (fun c => !c.running)

/-- The batches that a wait on n covers (R213), oldest first; 127 names the most recent SEAL. -/
def Crew.covers (c : Crew) (n : Nat) : List Nat :=
  match c.batches.last with
  | none => []
  | some l =>
    let d := (batchNo l + 127 - (if n = 127 then batchNo l else n)) % 127
    if 62 < d then [] else (c.batches.sealedB.filter (fun b => decide (b.serial + d ≤ l))).map (fun b => b.serial)

/-- The record of a batch's first fault (R215). -/
def Crew.batchFault (c : Crew) (serial : Nat) : Option FaultRec := look serial c.batches.recs

/-- The step of R214 for the copies of batches: bytes they wrote come from G into the core's image, but for dirty ones;
then the batches leave the outstanding set. -/
def State.coverOrdered (s : State) (core crew : Nat) (bs : List Nat) : State :=
  let pas := ((s.copies.filter (fun c => c.crew == crew && bs.contains c.serial)).flatMap (fun c => c.wrote)).filter
    (fun a => decide (a < 2 ^ 52) && !((s.core core).dirty.contains a))
  (s.syncIn core pas).cover crew bs

/-! ### Faulted batches -/

/-- The trap of a faulted batch (R349, R355): CAUSE bit [7] is set, the record's WORD is the copy instruction. -/
def batchTrap (q : FaultRec) (serial word : Nat) (resume : Resume) : Trap :=
  { slate := q.slate, cls := bits q.trapc.toNat 7 0, cause := bits q.trapc.toNat 15 8, val := q.trapv, code := 0, word := word,
    inst := q.word, resume := resume, batch := some serial, bar := none }

/-- A path takes the trap of a faulted batch; State.deliver has the batch covered where the trap is delivered (R349). Where
none is, or it is held for a peer (R353, R354), the batch stays outstanding. -/
def State.takeBatch (s : State) (r : PathRef) (serial : Nat) (q : FaultRec) (resume : Resume) : State :=
  match s.path? r with
  | none => s
  | some p => s.takeTrap r (batchTrap q serial (if p.inside then p.idx else 0) resume)

/-- The oldest faulted batch among those covered. -/
def Crew.oldestFault (c : Crew) (bs : List Nat) : Option (Nat × FaultRec) :=
  (bs.filterMap (fun b => (c.batchFault b).map (fun q => (b, q)))).head?

/-! ### The end of a wait (R214, R228, R237) -/

/-- The instruction at which a path stands. -/
def Path.here (p : Path) : Option Instr := (p.words[p.idx]?).bind (fun w => decodeWord (hdrPair p.hdr p.idx) w)

/-- What the word itself does once the batches are covered: FENCE acts as a fence (R228). -/
def State.afterCover (s : State) (core : Nat) : Option Instr → State
  | some (.fence o) => s.fenceAt core (wideScope o.scope) (isRelease o.ord) (isAcquire o.ord)
  | _ => s

/-- The resume point of a batch's trap at the word (R228, R349). -/
def batchResume : Option Instr → Resume
  | some (.fence _) => .word
  | _ => .after

/-- STATUS and BATCH of the timed form (R237). -/
def waitbResult (batch st : Nat) : Word := BitVec.ofNat 64 (batch * 2 ^ 8 + st)

/-- The end of a wait whose batches have all ended. -/
def State.waitbEnd (s : State) (r : PathRef) (c : Crew) (p : Path) (bs : List Nat)
    (timed : Option (Nat × Word × Word)) : State :=
  match timed with
  | some (dst, _, _) =>
    let good := bs.filter (fun b => (c.batchFault b).isNone)
    let t := s.coverOrdered c.core c.id good
    match c.oldestFault bs with
    | some q => ((t.cover c.id [q.1]).setOwn r dst (waitbResult (batchNo q.1) 2)).advance r
    | none => (t.setOwn r dst (waitbResult 0 0)).advance r
  | none =>
    match c.oldestFault bs with
    | some q => s.takeBatch r q.1 q.2 (if p.inside then batchResume p.here else .clause)
    | none =>
      let t := s.coverOrdered c.core c.id bs
      if p.inside then (t.afterCover c.core p.here).advance r else t.updPath r (fun x => { x with wait := .none })

/-- Judge a path that waits for batches: the wait ends, or times out, or is pre-empted (R237); where its time has passed and
a pre-emption is pending, the answer is TIMEOUT. DESIGN CHOICE (log 109). -/
def State.waitbJudge (s : State) (r : PathRef) : State :=
  match s.crew? r.crew with
  | none => s
  | some c =>
    match c.path? r.sel with
    | none => s
    | some p =>
      match p.wait with
      | .waitb bs timed =>
        if bs.all (fun b => s.batchEnded c.id b) then s.waitbEnd r c p bs timed
        else
          match timed with
          | some (dst, timeout, t0) =>
            if timeout ≠ 0 ∧ t0.toNat + timeout.toNat ≤ s.now then (s.setOwn r dst (waitbResult 0 1)).advance r
            else if c.saving then (s.setOwn r dst (waitbResult 0 3)).advance r
            else s
          | none => s
      | _ => s

/-- Judge every path of a crew that waits for batches. -/
def State.waitbAll (s : State) (crew : Nat) : State :=
  match s.crew? crew with
  | none => s
  | some c => c.allPaths.foldl (fun t q => t.waitbJudge { crew := crew, sel := q.1 }) s

/-- Begin a wait for batches, and end it at once when they have all ended. -/
def Env.waitOn (e : Env) (bs : List Nat) (timed : Option (Nat × Word × Word)) : Res :=
  .done ((e.s.updPath e.r (fun p => { p with wait := .waitb bs timed })).waitbJudge e.r)

/-- FENCE: MOD [0] is .cpy, a wait as WAITB 127 first (R228). -/
def execFence (o : FieldsM) (s : State) : Host.Outcome State Fault Refusal :=
  runWord (.fence o) s (fun e =>
    if fld o.md 0 0 = 1 then e.waitOn (e.c.covers 127) none
    else .ok (e.s.fenceAt e.c.core (wideScope o.scope) (isRelease o.ord) (isAcquire o.ord)))
/-- WAITB, plain form (R237). -/
def execWaitb (o : FieldsI) (s : State) : Host.Outcome State Fault Refusal :=
  runWord (.waitb o) s (fun e => e.waitOn (e.c.covers (fld o.imm 6 0)) none)
/-- WAITB, timeout form (R237). -/
def execWaitbT (o : FieldsI) (s : State) : Host.Outcome State Fault Refusal :=
  runWord (.waitbT o) s (fun e =>
    e.waitOn (e.c.covers (fld o.imm 6 0)) (some (o.dst.toNat, e.v.rs o.sa.toNat, e.s.slate)))
/-- WAITB_TIMEOUT (R237). -/
def execWaitbTimeout (r : PathRef) (s : State) : Host.Outcome State Fault Refusal := .next (s.waitbJudge r)

/-- SEAL (R212, R236): with 63 batches outstanding it waits for the oldest to end, retires it when it completed, and takes
its trap when it faulted. -/
def execSealb (o : FieldsI) (s : State) : Host.Outcome State Fault Refusal :=
  runWord (.sealb o) s (fun e =>
    let b := e.c.batches
    let close (t : State) : Res :=
      .ok ((t.updCrew e.r.crew (fun c =>
        { c with batches := { c.batches with
            openSerial := b.openSerial + 1
            sealedB := c.batches.sealedB ++ [{ serial := b.openSerial, num := batchNo b.openSerial }]
            last := some b.openSerial } })).ws e.r.crew o.dst.toNat (BitVec.ofNat 64 (batchNo b.openSerial)))
    match b.sealedB with
    | [] => close e.s
    | old :: _ =>
      if b.sealedB.length < 63 then close e.s
      else if !e.s.batchEnded e.c.id old.serial then .stall
      else
        match e.c.batchFault old.serial with
        | some q => .done (e.s.takeBatch e.r old.serial q .word)
        | none => close (e.s.cover e.c.id [old.serial]))

/-! ### Issue of a copy (R211, R235) -/

/-- Is the copy one of a Dolly? -/
def CopyKind.isDolly : CopyKind → Bool
  | .lin _ _ _ | .rows _ _ _ _ _ _ | .trans _ _ _ _ _ _ _ | .list _ _ _ => true
  | .put _ _ | .get _ _ | .red _ _ _ => false

/-- A copy joins the crew's open batch (R212), with the slot that its crew holds at issue. DESIGN CHOICE (log 149). -/
def State.addCopy (s : State) (e : Env) (k : CopyKind) (seq : Nat) : State :=
  let c : Copy := { id := s.nextId, crew := e.c.id, region := e.c.region, core := e.c.core, slot := e.c.slotNo,
                    serial := e.c.batches.openSerial, word := e.w, kind := k, pos := 0, entry := 0, old := [], mine := [],
                    wrote := [], seq := seq, since := s.now, state := .active }
  { s with copies := s.copies ++ [c], nextId := s.nextId + 1 }

/-- Has the cluster's Dolly room for a copy (R211)? -/
def State.dollyRoom (s : State) (core : Nat) : Bool :=
  decide ((s.copies.filter (fun c => c.kind.isDolly && c.running && clusterOf c.core == clusterOf core)).length <
    Config.dollyRoom)

/-- A copy that has passed its checks begins, or waits in its engine until a copy of the cluster completes (R211); what it
read at issue stands (R234). -/
def Env.startCopy (e : Env) (s : State) (k : CopyKind) : Res :=
  if s.dollyRoom e.c.core then .ok (s.addCopy e k 0) else .wait s (.room k)

/-- A copy word: one that waits for room tries again, with no second release (R211); a new one is released first. -/
def Env.copyWord (e : Env) (f : State → Res) : Res :=
  match e.p.wait with
  | .room k => e.startCopy e.s k
  | _ => f (e.s.publish e.c.core)

/-- A signed word of a byte string. -/
def signed8 (b : List Byte) (off : Nat) : Word := BitVec.ofNat 64 (word8 b off)

/-- CPY2 and CPYT: the descriptor is read from G after the release (R211, R234, R235). -/
def copyDesc (o : FieldsR) (mk : Word → Word → Word → Word → Nat → Nat → CopyKind) (e : Env) : Res :=
  e.copyWord (fun p =>
    let d := e.v.rs o.sc.toNat
    if d.toNat % 32 ≠ 0 then .trap p (e.misaligned d)
    else
      match p.gRead e.c.core e.c.region d.toNat 32 with
      | .error f => .mem p f
      | .ok b =>
        let q := p.gTouch e.c.core e.c.region d.toNat 32
        if word8 b 0x18 ≠ 0 then .trap q e.illegal
        else e.startCopy q (mk (e.v.rs o.sa.toNat) (e.v.rs o.sb.toNat) (signed8 b 0) (signed8 b 8)
          (word8 b 0x10 / 2 ^ 32) (word8 b 0x10 % 2 ^ 32)))

/-- CPY. -/
def execCpy (o : FieldsR) (s : State) : Host.Outcome State Fault Refusal :=
  runWord (.cpy o) s (fun e => e.copyWord (fun p =>
    let n := (e.v.rs o.sc.toNat).toNat
    if 2 ^ 32 < n then .trap p e.illegal
    else e.startCopy p (.lin (e.v.rs o.sa.toNat) (e.v.rs o.sb.toNat) n)))
/-- CPY2. -/
def execCpy2 (o : FieldsR) (s : State) : Host.Outcome State Fault Refusal := runWord (.cpy2 o) s (copyDesc o .rows)
/-- CPYT. -/
def execCpyt (o : FieldsR) (s : State) : Host.Outcome State Fault Refusal :=
  runWord (.cpyt o) s (copyDesc o (.trans (2 ^ o.md.toNat)))
/-- CPYQ. -/
def execCpyq (o : FieldsR) (s : State) : Host.Outcome State Fault Refusal :=
  runWord (.cpyq o) s (fun e => e.copyWord (fun p =>
    let a := e.v.rs o.sa.toNat
    let n := (e.v.rs o.sb.toNat).toNat
    if 4096 < n then .trap p e.illegal
    else if a.toNat % 32 ≠ 0 then .trap p (e.misaligned a)
    else e.startCopy p (.list a n none)))

/-! ### The Dolly at work (R215, R216, R328, R235) -/

/-- A word address moved by n rows of a signed stride. -/
def rowAt (a stride : Word) (n off : Nat) : Nat := (a + stride * BitVec.ofNat 64 n + BitVec.ofNat 64 off).toNat

/-- Destination and source address of byte k of a copy, in the order of its destination rows (R216, R235). -/
def CopyKind.bytes (c : CopyKind) (k : Nat) : Nat × Nat :=
  match c with
  | .lin d s _ => (rowAt d 0 0 k, rowAt s 0 0 k)
  | .rows d s dstr sstr _ nc => (rowAt d dstr (k / nc) (k % nc), rowAt s sstr (k / nc) (k % nc))
  | .trans e d s dstr sstr nr _ =>
    let c := k / (nr * e)
    let r := k % (nr * e) / e
    (rowAt d dstr c (r * e + k % e), rowAt s sstr r (c * e + k % e))
  | .list _ _ (some (d, s, _)) => (rowAt d 0 0 k, rowAt s 0 0 k)
  | _ => (0, 0)

/-- Bytes of a copy, or of the entry of a list at hand. -/
def CopyKind.total : CopyKind → Nat
  | .lin _ _ n => n
  | .rows _ _ _ _ nr nc => nr * nc
  | .trans e _ _ _ _ nr nc => nr * nc * e
  | .list _ _ (some (_, _, n)) => n
  | _ => 0

/-- Does a copy read its source by column lines, where that is square-tiled (R196, R235)? -/
def CopyKind.byColumns : CopyKind → Bool
  | .trans _ _ _ _ _ _ _ => true
  | _ => false

/-- A place as one number: scratch bytes lie above every physical address. -/
def Loc.key : Loc → Nat
  | .mem pa => pa
  | .bank b off => 2 ^ 60 + b * 2 ^ 18 + off
  | .wake k q => 2 ^ 61 + k * 64 + q

/-- A byte as a copy reads it: as it was before the copy (R216). -/
def State.copySees (s : State) (c : Copy) (l : Loc) : Byte :=
  if c.mine.contains l.key then Memory.read c.old l.key else s.readLoc c.core true l

/-- A copy notes the bytes that it is about to write, with what they hold (R214, R216). -/
def Copy.noting (c : Copy) (s : State) (ls : List Loc) : Copy :=
  ls.foldl (fun d l =>
    { d with wrote := insertNat l.key d.wrote
             mine := insertNat l.key d.mine
             old := if d.mine.contains l.key then d.old else Memory.write d.old l.key (s.readLoc d.core true l) }) c

/-- Copy byte k of a copy: the source reads as it was before the copy (R216). -/
def State.copyByte (s : State) (c : Copy) : Except MemFault State :=
  let a := c.kind.bytes c.pos
  match s.locs c.core c.region .load false [a.2] with
  | .error f => .error f
  | .ok ls =>
    match s.locs c.core c.region .store false [a.1] with
    | .error f => .error f
    | .ok ds =>
      let sl := ls.headD (.wake 0 0)
      let dl := ds.headD (.wake 0 0)
      let u := (s.serve c.core c.kind.byColumns [a.2]).serve c.core false [a.1]
      .ok (((u.crewStore c.core [(dl, s.copySees c sl)]).wakeErrors [sl, dl]).updCopy c.id (fun d =>
        { d.noting s [dl] with pos := d.pos + 1 }))

/-- Copy up to n more bytes; the fault that stops it, if any. -/
def State.copyBytes : Nat → Nat → State → State × Option MemFault
  | 0, _, s => (s, none)
  | n + 1, id, s =>
    match s.copy? id with
    | none => (s, none)
    | some c =>
      if c.kind.total ≤ c.pos then (s, none)
      else
        match s.copyByte c with
        | .error f => (s, some f)
        | .ok t => State.copyBytes n id t

/-- The record of a copy's fault, undelivered (R355): TRAPPC, WORD and PATH zero; a transfer's names its package (R311).
SLOT is that of the crew when the copy was issued. DESIGN CHOICE (log 149). -/
def State.copyRecord (s : State) (c : Copy) (f : MemFault) (batch : Nat) : FaultRec :=
  { slate := s.slate, trapc := BitVec.ofNat 64 ((f.cause + 128) * 2 ^ 8 + f.cls), trapv := f.va, trappc := 0,
    word := c.word, rcb := Config.rcbAddress c.region, core := c.core, slot := c.slot, batch := batch,
    pkg := c.kind.xfer.map (fun x => x.1.pkg) }

/-- The first fault of a batch of a crew whose lanes have all exited (R386): the event and the fault policy, or nothing
under FPOL 2; in a region that the host has suspended as well. -/
def State.lateFault (s : State) (c : Crew) (cp : Copy) (f : MemFault) : State :=
  match s.region? c.region with
  | none => s
  | some g =>
    if !g.takesTraps ∨ 2 ≤ g.rcb.fpol then s
    else
      let q := s.copyRecord cp f (if cp.serial = c.batches.openSerial then 0xFF else batchNo cp.serial)
      let t := (s.postEvent (q.words (g.rcb.fpol + 1))).updRegion g.id (fun x => { x with trapped := true })
      if g.rcb.fpol = 0 then t.terminate (t.domain g) f.cls else t.suspend (t.domain g)

/-- A copy, or an entry of a list, faults (R215): the batch keeps its first record. -/
def State.copyFault (s : State) (cp : Copy) (f : MemFault) : State :=
  let q := s.copyRecord cp f (batchNo cp.serial)
  let s1 := match s.crew? cp.crew with
    | none => s
    | some c =>
      if (c.batchFault cp.serial).isSome then s
      else
        let t := s.updCrew c.id (fun d => d.batchRec cp.serial q)
        if c.live = 0 then t.lateFault c cp f else t
  let s2 := match cp.kind with
    | .list b n _ => s1.updCopy cp.id (fun d =>
        { d with kind := .list b n none, entry := d.entry + 1, pos := 0, state := .active })
    | _ => s1.updCopy cp.id (fun d => { d with state := .faulted q })
  s2.waitbAll cp.crew

/-- A transfer is acknowledged (R309): it completes for its batch, also where a resend is held. -/
def State.acked (s : State) (id : Nat) : State :=
  (s.updCopy id (fun x => { x with entry := 2, state := if x.running then .sent else x.state })).post (.transferComplete false id)

/-- Where a transfer takes effect: a get here, any other at its package. -/
def State.landsAt (s : State) (c : Copy) (d : FabDesc) : BitVec 10 := if c.kind matches .get _ _ then s.pkgId else d.pkg

/-- The destination of a transfer that has failed is to set bit 63 of CNTA and to pass over its sequence number (R310, R311): at once
where it is this package; another one is told, again and again until it has answered. DEDUCED (log 139). -/
def State.cancelAt (s : State) (die : Nat) (pkg : BitVec 10) (h : XferHdr) : State :=
  if pkg = s.pkgId then s.cancelled h
  else { s with fab := { s.fab with cancels := s.fab.cancels ++ [(pkg, h)] } }.addJob die (some pkg) 1 (.cancel h)

/-- A copy fails at its source (R311). A transfer that has been performed whole in this package does not fail any more. DEDUCED
(log 139). -/
def State.copyFail (s : State) (c : Copy) (f : MemFault) : State :=
  match c.kind.xfer with
  | none => s.copyFault c f
  | some (d, cls, red) =>
    if s.performedHere c then s.acked c.id
    else (s.copyFault c f).cancelAt (dieOf c.core) (s.landsAt c d) (s.headerOf c d cls red)

/-- A memory fault of a copy: a replayable one holds it, a fatal one faults it (R215). -/
def State.copyMem (s : State) (id : Nat) (f : MemFault) : State :=
  match s.copy? id with
  | none => s
  | some c => if f.replayable then s.updCopy id (fun d => { d with state := .held f s.now }) else s.copyFail c f

/-- The next entry of a CPYQ list is read from G (R211, R234, R235). Its last word, which R234 has zero, is not looked at. DESIGN
CHOICE (log 131). -/
def State.nextEntry (s : State) (c : Copy) (base : Word) (n : Nat) : State :=
  match s.gRead c.core c.region (rowAt base 0 0 (32 * c.entry)) 32 with
  | .error f => s.copyMem c.id f
  | .ok b =>
    if 2 ^ 32 < word8 b 0x10 then s.copyFault c { cls := 1, cause := 1, va := c.word, replayable := false }
    else (s.gTouch c.core c.region (rowAt base 0 0 (32 * c.entry)) 32).updCopy c.id (fun d =>
      { d with kind := .list base n (some (BitVec.ofNat 64 (word8 b 0), BitVec.ofNat 64 (word8 b 8), word8 b 0x10)),
               pos := 0, old := [], mine := [] })

/-- Price of a Dolly's unit of 64 bytes (R328). -/
def dollyPrice : Nat := 64

/-- Draw tokens from a die bucket (R325, R348). -/
def State.drawDie (s : State) (die n : Nat) : State :=
  { s.updDie die (fun d => { d with bal := d.bal - n }) with power := { s.power with drawn := s.power.drawn + n } }

/-- DOLLY_UNIT (R211, R328): once the die bucket covers its price, the next 64 bytes move, also while the region is being
terminated. DESIGN CHOICE (log 103). A unit that a replayable fault stops partway draws 64 tokens again when the copy goes on.
DESIGN CHOICE (log 122). -/
def execDollyUnit (copy : Nat) (s : State) : Host.Outcome State Fault Refusal :=
  .next (match s.copy? copy with
    | none => s
    | some c =>
      if c.state ≠ .active ∨ c.kind.isDolly = false then s
      else
        let move : State :=
          if c.kind.total ≤ c.pos ∨ (s.die (dieOf c.core)).bal < dollyPrice then s
          else
            let q := State.copyBytes 64 copy (s.drawDie (dieOf c.core) dollyPrice)
            match q.2 with
            | none => q.1
            | some f => q.1.copyMem copy f
        match c.kind with
        | .list b n none => if c.entry < n then s.nextEntry c b n else s
        | .list b n (some x) =>
          if x.2.2 ≤ c.pos then s.updCopy copy (fun d => { d with kind := .list b n none, entry := d.entry + 1 })
          else move
        | _ => move)

/-- Has a copy moved all its bytes? -/
def Copy.whole (c : Copy) : Bool :=
  c.state == .active &&
  (match c.kind with
   | .list _ n none => decide (n ≤ c.entry)
   | .list _ _ (some _) => false
   | k => k.isDolly && decide (k.total ≤ c.pos))

/-- COPY_COMPLETE (R211, R212): the copy is done, and waits that cover it are judged. -/
def execCopyComplete (copy : Nat) (s : State) : Host.Outcome State Fault Refusal :=
  .next (match s.copy? copy with
    | none => s
    | some c => if c.whole then (s.updCopy copy (fun d => { d with state := .done })).waitbAll c.crew else s)

/-- The fault of a hold that was not resolved in time (R215, R349, R364). -/
def MemFault.late (f : MemFault) : MemFault :=
  { f with cls := if f.cls = 9 then 9 else 8, cause := if f.cls = 9 then 1 else 5, replayable := false }

/-- COPY_HOLD_TIMEOUT (R215). -/
def execCopyHoldTimeout (copy : Nat) (s : State) : Host.Outcome State Fault Refusal :=
  .next (match s.copy? copy with
    | none => s
    | some c =>
      match c.state with
      | .held f since => if since + Config.replayBound < s.now then s.copyFail c f.late else s
      | _ => s)

end Sys2Proof.Machine
end

