-- ==== Sys2Proof/Machine/Bridge.lean ====
section
/-! DEFINITION. Residency reports (R375), and the launch packets that arrive on the bridge ports, which queue 63 takes (R320, R373). -/

namespace Sys2Proof.Machine

/-! ### Residency reports (R375) -/

/-- Crews that hold a slot of a quadrant. -/
def Crew.holdsSlot (c : Crew) : Bool :=
  match c.state with
  | .saved _ => false
  | _ => true

/-- Free crew slots of a die. -/
def State.freeSlots (s : State) (die : Nat) : Nat :=
  64 * 4 * Config.slots - (s.crews.filter (fun c => c.holdsSlot && dieOf c.core == die)).length

/-- Four 16-bit fields, one for each die. -/
def perDie (f : Nat → Nat) : Nat := ((List.range 4).map (fun d => f d % 65536 * 65536 ^ d)).sum

/-- Is a region live, as the report counts it? -/
def Region.live (g : Region) : Bool :=
  match g.state with
  | .complete | .terminated => false
  | _ => true

/-- The residency report (R375). -/
def State.residency (s : State) (tag : Word) : List Byte :=
  wordBytes [s.slate.toNat, tag.toNat, perDie s.freeSlots, perDie (fun d => (s.die d).spawnQ.length),
    (s.regions.filter Region.live).length * 2 ^ 32 + (s.crews.filter (fun c => !c.holdsSlot)).length,
    (s.queue 63).rd.toNat, s.power.rate % 2 ^ 13, 11]

/-! ### Packets from the bridge ports (R375) -/

/-- The addresses in the ring of queue 63 at which n units come to lie (R370). -/
def bridgePlaces (q : Queue) (n : Nat) : List Nat :=
  (List.range n).flatMap (fun i => span (q.rbase.toNat + 64 * ((q.wr.toNat + i) % 2 ^ q.log2)) 64)

/-- A launch packet from a bridge port is placed in queue 63, whose WR the bridge unit advances in place of a wake store, and a report
goes back on the bridge ports when it is accepted (R375). As such a store (R22, R370, R373): a queue that is off or halted ignores it,
and one that it would take beyond RD and the ring halts with ERR 2. A unit that cannot be written halts the queue with ERR 7; a
replayable fault of it, the migration fault among these (R217), is waited for, as the second part says, or, unresolved, gives ERR 7.
DESIGN CHOICE (log 141). -/
def State.bridgePacket (s : State) (units : List (List Byte)) : State × Bool :=
  let q := s.queue 63
  let n := units.length
  if n = 0 ∨ !q.en ∨ q.halt then (s, false)
  else if q.rd.toNat + 2 ^ q.log2 < q.wr.toNat + n then (s.halt 63 2, false)
  else
    let u := s.openFor noCore 0 .store (bridgePlaces q n)
    match u.locs noCore 0 .store false (bridgePlaces q n) with
    | .error f => if f.replayable && (Config.freeChoice s.free).testBit 0 then (u, true) else (u.halt 63 7, false)
    | .ok ls =>
      let t := (((u.gWrite (memPart (ls.zip units.flatten))).agentTouch ls).updQueue 63 (fun x =>
        { x with wr := x.wr + BitVec.ofNat 64 n }))
      (t.sendBridge (.report (t.residency 0)), false)

end Sys2Proof.Machine
end

