-- ==== Sys2Proof/Machine/Narrow.lean ====
section
/-! DEFINITION. Conversions, narrow formats and quantisation (R174 to R180), and pair words (R116 to R118). -/

namespace Sys2Proof.Machine

/-- An element as wide as the whole lane of a kind. -/
def laneElem (k : Kind) : Elem := if k = .pair then elem64 else elem32

/-- Destination and source codes, and the .sat mark of a conversion (R174, R175). -/
def codeD (o : FieldsR) : Nat := fld o.sc 7 4
def codeS (o : FieldsR) : Nat := fld o.sc 3 0
def isSat (o : FieldsR) : Bool := fld o.md 4 4 == 1

/-- VFCVT (R175). -/
def execVfcvt (o : FieldsR) (s : State) : Host.Outcome State Fault Refusal :=
  runWord (.vfcvt o) s (fun e =>
    vecOut e (laneElem (codeKind (codeD o))) o.dst.toNat o.pred (fun i _ =>
      cvt (codeD o) (codeS o) o.rm.toNat (isSat o) (srcElem e.v o 1 o.sa (codeElem (codeS o)) i 0)))

/-- VPACK (R176): with equal formats each element is copied bit for bit. -/
def execVpack (o : FieldsR) (s : State) : Host.Outcome State Fault Refusal :=
  runWord (.vpack o) s (fun e =>
    let d := codeD o
    let src := codeElem (codeS o)
    let n := codeWidth d / 8
    let pos := fld o.md 1 0
    let conv (b : Nat) : Nat × Flags := if d = codeS o then (b, 0) else cvt d (codeS o) o.rm.toNat (isSat o) b
    let vs := (maskLanes (activeMask e.v e.p.side.exm o.pred)).flatMap (fun i =>
      [(i, pos, conv (srcElem e.v o 1 o.sa src i 0)), (i, pos + 1, conv (srcElem e.v o 2 o.sb src i 0))])
    .ok (e.s.updCrew e.r.crew (fun c => c.putVals { kind := .vec, bytes := n, count := 4 / n } o.dst.toNat vs)))

/-- VUNPK (R177). When D equals S the value is converted as any other. -/
def execVunpk (o : FieldsR) (s : State) : Host.Outcome State Fault Refusal :=
  runWord (.vunpk o) s (fun e =>
    vecOut e (laneElem (codeKind (codeD o))) o.dst.toNat o.pred (fun i _ =>
      cvt (codeD o) (codeS o) o.rm.toNat (isSat o) (srcElem e.v o 1 o.sa (codeElem (codeS o)) i (fld o.md 1 0))))

/-! ### CB4 (R178) -/

/-- Replace nibble q of a lane. -/
def setNibble (x q v : Nat) : Nat := x - bits x (4 * q + 3) (4 * q) * 16 ^ q + v % 16 * 16 ^ q

/-- VCBT enc. -/
def execVcbtEnc (o : FieldsR) (s : State) : Host.Outcome State Fault Refusal :=
  runWord (.vcbtEnc o) s (fun e =>
    let q := fld o.md 2 0
    vecOut e elem32 o.dst.toNat o.pred (fun i _ =>
      let r := cb4Encode e.v.codebook (codeDecode (codeS o) (srcElem e.v o 1 o.sa (codeElem (codeS o)) i 0))
      (setNibble (e.v.elem .vec o.dst.toNat i 4 0) q r.1, r.2)))
/-- The CB4 index that VCBT dec reads in lane i: nibble q, or the low four bits of a broadcast (R76, R178). -/
def decIndex (v : Crew) (o : FieldsR) (i : Nat) : Nat :=
  let q := fld o.md 2 0
  if replaces o 1 then bcastBits v o 4 o.sa else bits (srcElem v o 1 o.sa elem32 i 0) (4 * q + 3) (4 * q)
/-- VCBT dec. -/
def execVcbtDec (o : FieldsR) (s : State) : Host.Outcome State Fault Refusal :=
  runWord (.vcbtDec o) s (fun e =>
    vecOut e elem32 o.dst.toNat o.pred (fun i _ =>
      encodeFloat (codeD o) o.rm.toNat (cbEntry e.v.codebook (decIndex e.v o i))))
/-- VCBT mov. -/
def execVcbtMov (o : FieldsR) (s : State) : Host.Outcome State Fault Refusal :=
  runWord (.vcbtMov o) s (fun e =>
    vecOut e elem32 o.dst.toNat o.pred (fun i _ =>
      (setNibble (e.v.elem .vec o.dst.toNat i 4 0) (fld o.md 2 0) (srcElem e.v o 1 o.sa elem32 i 0), 0)))

/-! ### Quantisation (R88, R179, R180) -/

/-- VQHIST (R179): one scale for each block of 16, 32 or 64 lanes. -/
def execVqhist (o : FieldsR) (s : State) : Host.Outcome State Fault Refusal :=
  runWord (.vqhist o) s (fun e =>
    let act := activeMask e.v e.p.side.exm o.pred
    let n := 16 * 2 ^ fld o.md 1 0
    let cb := e.v.codebook
    let scales := (List.range (Config.creww / n)).map (fun b =>
      qscale (((List.range n).filter (fun k => act.getLsbD (b * n + k))).map (fun k =>
        fp32.decode (srcElem e.v o 1 o.sa elem32 (b * n + k) 0))) (bcastBits e.v o 8 o.sb) (qTop cb (fld o.md 4 2)))
    vecOut e elem32 o.dst.toNat o.pred (fun i _ => (wrapNat 32 (scales.getD (i / n) 0), 0)))

/-- A scale exponent, held to a range beyond which every format gives the same result: the exact value lies above every
finite value or below half the least one whatever the mode asks. -/
def scaleExp (x : Nat) : Int := satInt (sextInt 32 x) (-4096) 4096

/-- VQNT (R180). -/
def execVqnt (o : FieldsR) (s : State) : Host.Outcome State Fault Refusal :=
  runWord (.vqnt o) s (fun e =>
    vecOut e elem32 o.dst.toNat o.pred (fun i _ =>
      qEncode e.v.codebook (fld o.md 4 2) o.rm.toNat
        ((fp32.decode (srcElem e.v o 1 o.sa elem32 i 0)).scale (-(scaleExp (srcElem e.v o 2 o.sb elem32 i 0))))))

/-! ### Pair words -/

/-- The vector floating-point TYPE of a compact type (R109, R116). -/
def halfFpTy (ct : BitVec 2) : BitVec 3 := if ct = 1 then 0 else if ct = 2 then 2 else 3

/-- Element shape of a half. -/
def halfElem (h : Half) : Elem :=
  if 0x10 ≤ h.cop.toNat ∧ h.cop.toNat ≤ 0x17 then fpElem (halfFpTy h.ct) else elem32

/-- A compact conversion: whole lanes, the source in its low bits (R117). -/
def halfCvt (d s : Nat) : LaneFn := fun a _ _ => cvt d s 0 false (a % 2 ^ codeWidth s)

/-- What a compact operation computes (R117): of CA, CB and CD. -/
def halfFn (h : Half) : LaneFn :=
  let f := fpFmt (halfFpTy h.ct)
  let spec (g : Nat → FVal → Nat × Flags) : LaneFn := fun a _ _ => g 0 (fp32.decode a)
  match h.cop.toNat with
  | 0x01 => intFn 0 false rowAdd
  | 0x02 => intFn 0 false rowSub
  | 0x03 => intFn 0 false rowMul
  | 0x04 => intFn 0 false rowMad
  | 0x05 => intFn 0 false rowAnd
  | 0x06 => intFn 0 false rowOr
  | 0x07 => intFn 0 false rowXor
  | 0x08 => intFn 0 false rowShl
  | 0x09 => intFn 0 false rowShr
  | 0x0A => intFn 0 false rowSar
  | 0x0B => intFn 0 false rowMin
  | 0x0C => intFn 0 false rowMax
  | 0x0D => intFn 0 false rowMov
  | 0x0E => intFn 0 false rowAbs
  | 0x0F => intFn 0 false rowNot
  | 0x10 => rowFadd f 0
  | 0x11 => rowFsub f 0
  | 0x12 => rowFmul f 0
  | 0x13 => rowFma f 0
  | 0x14 => rowFmin f 0
  | 0x15 => rowFmax f 0
  | 0x16 => rowFabs f 0
  | 0x17 => rowFneg f 0
  | 0x18 => spec rcpF
  | 0x19 => spec rsqF
  | 0x1A => spec sqrtF
  | 0x1B => spec exp2F
  | 0x1C => spec log2F
  | 0x1D => spec (trigF false)
  | 0x1E => spec (trigF true)
  | 0x20 => halfCvt 0 5
  | 0x21 => halfCvt 5 0
  | 0x22 => halfCvt 3 0
  | 0x23 => halfCvt 0 3
  | 0x24 => halfCvt 2 0
  | 0x25 => halfCvt 0 2
  | _ => fun _ _ _ => (0, 0)

/-- The results of a half, from the sources as the word issues (R116). -/
def halfVals (h : Half) (v : Crew) (act : Mask) : List (Nat × Nat × (Nat × Flags)) :=
  if h.cop = 0 then []
  else laneVals (halfElem h) act (fun i j =>
    halfFn h (v.elem .vec h.ca.toNat i (halfElem h).bytes j) (v.elem .vec h.cb.toNat i (halfElem h).bytes j)
      (v.elem .vec h.cd.toNat i (halfElem h).bytes j))

/-- A pair word (R116): predicate k0, RNE; neither half sees the other's result. -/
def execPairWord (o : FieldsP) (s : State) : Host.Outcome State Fault Refusal :=
  runWord (.pairWord o) s (fun e =>
    let act := e.p.side.exm
    let lo := halfVals o.lo e.v act
    let hi := halfVals o.hi e.v act
    .ok (e.s.updCrew e.r.crew (fun c =>
      (c.putVals (halfElem o.lo) o.lo.cd.toNat lo).putVals (halfElem o.hi) o.hi.cd.toNat hi)))

end Sys2Proof.Machine
end

