-- ==== Sys2Proof/Machine/Matrix.lean ====
section
/-! DEFINITION. The matrix array (R239 to R268): the format block, the dot products, remote operands and their resume words,
checksums and poison, the weight buffer, and the moves, scalings and signatures of accumulators. -/

namespace Sys2Proof.Machine

/-! ### Shapes and elements (R242, R243, R247) -/

/-- Which of the three products an instruction forms (R248). -/
inductive Product where
  | plain
  | masked
  | weights
  deriving DecidableEq, Repr

/-- The fields and the kind of a product. -/
def productOf : Instr → Option (FieldsX × Product)
  | .mma o => some (o, .plain)
  | .mmat o => some (o, .masked)
  | .mmaw o => some (o, .weights)
  | _ => none

/-- M and N, and K, of a class (R242). -/
def shapeM (ty : BitVec 3) : Nat := if ty = 0 then 16 else 32
def shapeK (ty : BitVec 3) : Nat := if ty = 0 then 16 else if ty = 1 then 32 else if ty = 4 then 128 else 64
/-- Format and bytes of an accumulator element (R242). INT32 has the width of FP32. -/
def accFmt (ty : BitVec 3) : Fmt := if ty = 0 then fp64 else fp32
def accBytes (ty : BitVec 3) : Nat := if ty = 0 then 8 else 4

/-- An element or a scale as it enters a sum (R91, R94): its value, and the accumulator pattern that it gives a sum when
it is a NaN. -/
structure Term where
  v : FVal
  nan : Nat
  deriving DecidableEq, Repr

/-- A NaN of format f, quieted, in format g with its most significant fraction bits (R94). -/
def quietTo (g f : Fmt) (b : Nat) : Nat :=
  (if b.testBit (f.eb + f.fb) then 2 ^ (g.eb + g.fb) else 0) + (2 ^ g.eb - 1) * 2 ^ g.fb +
    ((b % 2 ^ f.fb * 2 ^ (g.fb - f.fb)) ||| 2 ^ (g.fb - 1))
/-- A pattern of format f as a term of a sum in format g. -/
def Term.ieee (g f : Fmt) (b : Nat) : Term := { v := f.decode b, nan := quietTo g f b }
/-- A value whose NaN carries no payload. -/
def Term.plain (v : FVal) : Term := { v := v, nan := fp32.nanBits }

/-- Element i of w bytes. -/
def patternAt (b : Array Byte) (w i : Nat) : Nat := ofBytes ((List.range w).map (fun j => b.getD (i * w + j) 0))
/-- Nibble i: an even one in the low half of its byte (R85). -/
def nibbleAt (b : Array Byte) (i : Nat) : Nat := bits (b.getD (i / 2) 0).toNat (4 * (i % 2) + 3) (4 * (i % 2))

/-- Element i of an operand in an element format (R245); cb gives the codebook's BF16 patterns. -/
def elemTerm (fmt : Nat) (cb : Nat → Nat) (b : Array Byte) (i : Nat) : Term :=
  if fmt = 0 then Term.ieee fp64 fp64 (patternAt b 8 i)
  else if fmt = 1 then Term.ieee fp32 fp16 (patternAt b 2 i)
  else if fmt = 2 then Term.ieee fp32 bf16 (patternAt b 2 i)
  else if fmt = 3 then Term.plain (mk8Decode (b.getD i 0).toNat)
  else Term.ieee fp32 bf16 (cb (nibbleAt b i))

/-- A scale of format 1 E8 or 2 BF16 (R87). -/
def scaleTerm (fmt x : Nat) : Term :=
  if fmt = 1 then (if x = 128 then Term.plain (.nan false) else Term.plain (.fin false 1 (sextInt 8 x)))
  else Term.ieee fp32 bf16 x

/-- ⌈k ÷ l⌉. -/
def ceilDiv (k l : Nat) : Nat := (k + l - 1) / l

/-- The scale of element k of row r, if the operand has scales (R247). -/
def scaleOf (sc : Option (Nat × Nat × List Nat)) (kk r k : Nat) : Option Term :=
  sc.map (fun x => scaleTerm x.1 (x.2.2.getD (r * ceilDiv kk x.2.1 + k / x.2.1) 0))

/-! ### Dot products (R90 to R94) -/

/-- One factor of a product: an element and its scale. -/
abbrev Factor := Term × Option Term

/-- An element multiplied by its scale, exactly (R87). -/
def Factor.val (x : Factor) : FVal :=
  match x.2 with
  | none => x.1.v
  | some s => (FVal.mul x.1.v s.v).1

/-- The NaNs of a pair of factors in the order a, b, sa, sb (R94). -/
def pairNans (x y : Factor) : List Nat :=
  ([some x.1, some y.1, x.2, y.2].filterMap id).filterMap (fun t => if t.v.isNan then some t.nan else none)

/-- The exact sum of a group (R91). -/
def groupSum (zs : Bool) (ps : List FVal) : FVal :=
  match ps.map (fun p => if zs && p.isZero then FVal.fin false 0 0 else p) with
  | [] => .fin false 0 0
  | p :: r => r.foldl (fun a b => (FVal.add 0 a b).1) p

/-- One rounding of the running sum (R91, R92); a group without products is skipped (R248). -/
def groupStep (f : Fmt) (zs : Bool) (c : FVal) (ps : List FVal) : FVal :=
  if ps.isEmpty then c
  else
    let x := (FVal.add 0 c (groupSum zs ps)).1
    if zs && x.isZero then .fin false 0 0 else f.decode (f.round 0 x).1

/-- The exact products of pairs of factors. -/
def factorProducts (xs : List (Factor × Factor)) : List FVal := xs.map (fun q => (FVal.mul q.1.val q.2.val).1)

/-- The NaNs among pairs of factors, in the order of the pairs (R94). -/
def factorNans (xs : List (Factor × Factor)) : List Nat := xs.flatMap (fun q => pairNans q.1 q.2)

/-- The NaN inputs of a dot product in their order: the accumulator's element, unless its NaN comes of an invalid combination
alone, and then those of its factors (R94). -/
def dotNans (f : Fmt) (bad : Bool) (c : Nat) (ns : List Nat) : List Nat :=
  (if (f.decode c).isNan && !bad then [quietTo f f c] else []) ++ ns

/-- A dot product onto the pattern c in format f, in groups of g, of exact products and the NaNs among their factors (R91, R92,
R94): the pattern, and whether it is a NaN that comes of an invalid combination alone. bad says so of c. -/
def fpDot (f : Fmt) (g : Nat) (blk : MBlock) (bad : Bool) (c : Nat) (ps : List FVal) (ns : List Nat) : Nat × Bool :=
  if ps.isEmpty then (c, bad)
  else
    let r := (pieces g (ceilDiv ps.length g) ps).foldl (groupStep f blk.zsign) (f.decode c)
    if !r.isNan then ((f.round 0 r).1, false)
    else
      let l := dotNans f bad c ns
      (if blk.nanc then f.nanBits else l.headD f.nanBits, l.isEmpty)

/-- The products of a group of R91, and of R92. -/
def groupLen (ty : BitVec 3) : Nat := if ty = 0 then 1 else 8

/-- The exact product of two INT8 elements (R93). -/
def intProduct (q : Nat × Nat) : Int := sextInt 8 q.1 * sextInt 8 q.2

/-- The INT8 product (R93). -/
def intDot (c : Nat) (xs : List (Nat × Nat)) : Nat :=
  wrapNat 32 (xs.foldl (fun acc q => acc + intProduct q) (sextInt 32 c))

/-! ### A whole product -/

/-- The constant of MMAT as an accumulator pattern (R250): an FP64 accumulator takes it widened, a NaN with its sign,
its state and its fraction bits kept. -/
def fillPattern (ty : BitVec 3) (ps : Word) : Nat :=
  let b := ps.toNat % 2 ^ 32
  if ty ≠ 0 then b
  else if (fp32.decode b).isNan then
    (if b.testBit 31 then 2 ^ 63 else 0) + 2047 * 2 ^ 52 + b % 2 ^ 23 * 2 ^ 29
  else (fp64.round 0 (fp32.decode b)).1

/-- Is element (m, n) masked (R250)? -/
def maskedAt (pr : Product) (ps : Word) (m n : Nat) : Bool :=
  pr == .masked && decide ((n : Int) - m > sextInt 8 (bits ps.toNat 39 32))

/-- The table block length of MMAW (R254). -/
def tableLen (o : FieldsX) : Nat := if fld o.md 1 0 = 0 then shapeK o.ty else 8 * 2 ^ fld o.md 1 0

/-- The codebook entry that element k of column n of B uses (R247, R254). -/
def entryB (o : FieldsX) (pr : Product) (blk : MBlock) (image : Array Byte) (n k i : Nat) : Nat :=
  if pr = .weights then
    let t := ceilDiv (shapeK o.ty) (tableLen o)
    patternAt image 2 ((32 * shapeK o.ty / 2 + (n * t + k / tableLen o) * 32) / 2 + i)
  else blk.cbB.getD i 0

/-- What the array kept of element i where the product had been stopped at slice lo: nothing where slice 0 is still to come, or
where the accumulator no longer holds what the array left there, so that the element begins anew. DEDUCED (log 68). -/
def SliceRun.heldCell (run : SliceRun) (lo i c0 : Nat) : Option ArrayCell :=
  if lo = 0 then none else (run.held[i]?).filter (fun h => h.out == c0)

/-- The elements after the products of slices from lo up to hi of a run, k below its limit (R248, R262), each with its input and
its products from the beginning of the instruction on (R265). Element (m, n) outside the limits keeps its value; in overwrite mode
slice 0 starts from +0. -/
def SliceRun.cells (run : SliceRun) (o : FieldsX) (pr : Product) (ta tb : List Byte) (lo hi : Nat) : List ArrayCell :=
  let a := ta.toArray
  let image := run.blk.image.toArray
  let b := if pr = .weights then image else tb.toArray
  let k := shapeK o.ty
  let m := shapeM o.ty
  let acc := run.acc0.toArray
  let ks := (List.range k).filter (fun j => decide (lo * k / 4 ≤ j) && decide (j < hi * k / 4) && decide (j < run.lim.2.2))
  let fa := ((List.range (m * k)).map (fun i =>
    ((elemTerm run.blk.afmt (fun x => run.blk.cbA.getD x 0) a i, scaleOf run.blk.scaleA k (i / k) (i % k)) : Factor))).toArray
  let fb := ((List.range (m * k)).map (fun i =>
    ((elemTerm run.blk.bfmt (entryB o pr run.blk image (i / k) (i % k)) b i,
      scaleOf run.blk.scaleB k (i / k) (i % k)) : Factor))).toArray
  let zero : Factor := (Term.plain (.fin false 0 0), none)
  let cell (i : Nat) : ArrayCell :=
    let r := i / m
    let n := i % m
    let c0 := patternAt acc (accBytes o.ty) i
    let fresh (x : Nat) : ArrayCell := { computed := false, c := x, ps := [], nans := [], out := x, invalid := false }
    let c := if o.mode = 1 ∧ lo = 0 then 0 else c0
    let old := (run.heldCell lo i c0).getD (fresh c)
    if run.lim.1 ≤ r ∨ run.lim.2.1 ≤ n then (run.heldCell lo i c0).getD (fresh c0)
    else if maskedAt pr run.ps r n then fresh (fillPattern o.ty run.ps)
    else if o.ty = 3 then
      let xs := ks.map (fun j => ((a.getD (r * k + j) 0).toNat, (b.getD (n * k + j) 0).toNat))
      { old with computed := old.computed || !ks.isEmpty, ps := old.ps ++ xs.map (fun q => intVal (intProduct q)), out := intDot c xs }
    else
      let xs := ks.map (fun j => (fa.getD (r * k + j) zero, fb.getD (n * k + j) zero))
      let ns := factorNans xs
      let x := fpDot (accFmt o.ty) (groupLen o.ty) run.blk old.invalid c (factorProducts xs) ns
      { computed := old.computed || !ks.isEmpty, c := old.c, ps := old.ps ++ factorProducts xs, nans := old.nans ++ ns,
        out := x.1, invalid := x.2 }
  (List.range (m * m)).map cell

/-- The accumulator's bytes with its elements as a run leaves them. Where the staging tile of a fetched operand shares granules with
the accumulator, all of these bytes, those outside the elements computed too, replace the slices there. DESIGN CHOICE (log 133). -/
def SliceRun.bytesOf (run : SliceRun) (o : FieldsX) (cs : List ArrayCell) : List Byte :=
  cs.flatMap (fun x => toBytes (accBytes o.ty) x.out) ++ run.acc0.drop (shapeM o.ty * shapeM o.ty * accBytes o.ty)

/-! ### Checksums (R265, R266) -/

/-- The value of an element's pattern in the accumulator's format. -/
def accValue (ty : BitVec 3) (b : Nat) : FVal := if ty = 3 then intVal (sextInt 32 b) else (accFmt ty).decode b

/-- The sum of exact finite values. -/
def exactSum (l : List FVal) : FVal := l.foldl (fun a b => (FVal.add 0 a b).1) (.fin false 0 0)

/-- The magnitude of an exact value. -/
def FVal.magnitude : FVal → FVal
  | .fin _ m e => .fin false m e
  | .inf _ => .inf false
  | .nan q => .nan q

/-- Is a finite magnitude at most 2^j times another? -/
def withinPow (x y : FVal) (j : Int) : Bool :=
  match x, y with
  | .fin _ m1 e1, .fin _ m2 e2 => let a := alignTo false m1 e1 false m2 (e2 + j); decide (a.1 ≤ a.2.1)
  | _, _ => false

/-- A finite whole value. -/
def wholeValue : FVal → Int
  | .fin n m e => (if n then -1 else 1) * m * (2 ^ e.toNat : Nat)
  | _ => 0

/-- The check of one row or column (R265): O against X over the elements computed whose input, products and result are
finite. -/
def lineOk (ty : BitVec 3) (cs : List ArrayCell) : Bool :=
  let t := cs.filter (fun x =>
    x.computed && (accValue ty x.c).isFinite && x.ps.all FVal.isFinite && (accValue ty x.out).isFinite)
  let o := exactSum (t.map (fun x => (FVal.add 0 (accValue ty x.out) (accValue ty x.c).neg).1))
  let d := (FVal.add 0 o (exactSum (t.flatMap (fun x => x.ps))).neg).1
  if ty = 3 then decide (wholeValue d % (2 ^ 32 : Int) = 0)
  else withinPow d (exactSum (t.flatMap (fun x => (accValue ty x.c).magnitude :: x.ps.map FVal.magnitude))) (-10)

/-- Does every row and every column pass? -/
def checksOk (ty : BitVec 3) (cs : List ArrayCell) : Bool :=
  let m := shapeM ty
  let zs := cs.zipIdx
  (List.range m).all (fun r =>
    lineOk ty ((zs.filter (fun q => q.2 / m == r)).map (fun q => q.1)) &&
    lineOk ty ((zs.filter (fun q => q.2 % m == r)).map (fun q => q.1)))

/-- The elements as a run of the array holds them: up gives the pattern of each that it computes. -/
def observed (ty : BitVec 3) (up : Nat → Nat → Nat) (cs : List ArrayCell) : List ArrayCell :=
  cs.zipIdx.map (fun q =>
    if q.1.computed then { q.1 with out := up q.2 q.1.out % 2 ^ (8 * accBytes ty) } else q.1)

/-- An element as the rerun of the whole instruction forms it (R266): from its input, with all its products in order. -/
def SliceRun.again (run : SliceRun) (o : FieldsX) (x : ArrayCell) : ArrayCell :=
  if !x.computed then x
  else if o.ty = 3 then { x with out := wrapNat 32 (x.ps.foldl (fun acc p => acc + wholeValue p) (sextInt 32 x.c)) }
  else
    let y := fpDot (accFmt o.ty) (groupLen o.ty) run.blk false x.c x.ps x.nans
    { x with out := y.1, invalid := y.2 }

/-- What two runs leave, and whether it is poisoned (R266): the first run's elements stand where it passes its checks, an error
within the tolerance of R265 included (R268); else those of the second, which are poisoned where it fails too. -/
def twoRuns (ty : BitVec 3) (up : Nat → Nat → Nat → Nat) (cs ds : List ArrayCell) : List ArrayCell × Bool :=
  if checksOk ty (observed ty (up 0) cs) then (observed ty (up 0) cs, false)
  else (observed ty (up 1) ds, !checksOk ty (observed ty (up 1) ds))

/-- The patterns of an array in its first and its second run of a product: those it computes, but where a soft error strikes, which
is open; a free value counts the runs (log 68). -/
def softUps (free : Nat) (k i x : Nat) : Nat :=
  if Config.softError (2 * free + k) i then Config.upset (2 * free + k) i x else x

/-! ### Slices (R262 to R264) -/

/-- Is slice q of every operand in its tile? -/
def SliceRun.ready (run : SliceRun) (o : FieldsX) (q : Nat) : Bool :=
  (o.ra == 0 || run.mapA.getLsbD q) && (o.rb == 0 || run.mapB.getLsbD q)
/-- KSTEP: the slices whose products are formed, in ascending order. -/
def SliceRun.kstep (run : SliceRun) (o : FieldsX) : Nat :=
  (List.range 4).foldl (fun n q => if run.base ≤ q ∧ n = q ∧ run.ready o q then q + 1 else n) run.base
/-- The resume word (R263). -/
def SliceRun.word (run : SliceRun) (o : FieldsX) : Word :=
  BitVec.ofNat 64 (2 ^ 63 + run.kstep o * 2 ^ 8 + run.mapB.toNat * 2 ^ 4 + run.mapA.toNat)

/-- The elements after the slices that have arrived, up to a step. -/
def SliceRun.arrived (run : SliceRun) (o : FieldsX) (pr : Product) (hi : Nat) : List ArrayCell :=
  run.cells o pr run.opA run.opB run.base hi

/-- Stop at a slice boundary (R263), where up gives the array's patterns: the slices that have arrived are added, RESUME and RWORD
are written, and the array keeps the inputs and the products of the elements for the checks of the whole instruction, which come at
its end (R265, R266). DEDUCED (log 68). -/
def State.stopWith (s : State) (up : Nat → Nat → Nat) (c : Crew) (run : SliceRun) (o : FieldsX) (pr : Product) (w : Word) : State :=
  let d := o.dst.toNat
  let added := decide (run.base < run.kstep o)
  let cs := observed o.ty up (run.arrived o pr (run.kstep o))
  s.updCrew c.id (fun x =>
    (x.wrBytes .acc d 0 (if added then run.bytesOf o cs else run.acc0)).wside d
      { x.side d with resume := run.word o, rword := w, held := if added then cs else run.held })

/-- The stop of a product in this array, whose soft errors are open. -/
def State.sliceStop (s : State) (c : Crew) (run : SliceRun) (o : FieldsX) (pr : Product) (w : Word) : State :=
  s.stopWith (softUps s.free 0) c run o pr w

/-- The end of a product (R263 to R266), where up gives the array's patterns in its first and its second run: the result, RESUME
and RWORD cleared; when both runs fail the checks of the whole instruction, POISON and the array-error event. -/
def State.productWith (s : State) (up : Nat → Nat → Nat → Nat) (c : Crew) (run : SliceRun) (o : FieldsX) (pr : Product)
    (w : Word) : State :=
  let d := o.dst.toNat
  let cs := run.arrived o pr 4
  let q := twoRuns o.ty up cs (cs.map (run.again o))
  let t := s.updCrew c.id (fun x =>
    (x.wrBytes .acc d 0 (run.bytesOf o q.1)).wside d { poison := q.2 || (x.side d).poison, resume := 0, rword := 0 })
  if q.2 then t.postWords [s.slate.toNat, c.core, d, 0, w.toNat] 3 else t

/-- The end of a product in this array, whose soft errors are open: the elements are those of R248 where none strikes the run that
stands (R266, R268). -/
def State.productEnd (s : State) (c : Crew) (run : SliceRun) (o : FieldsX) (pr : Product) (w : Word) : State :=
  s.productWith (softUps s.free) c run o pr w

/-- Bytes of a row of a tile (R243). -/
def tileRow (ty : BitVec 3) : Nat := 2048 / shapeM ty

/-- The register bytes of slice q in the tile layout, row by row (R262). -/
def slicePlaces (row q : Nat) : List Nat :=
  (List.range (2048 / row)).flatMap (fun j => (List.range (row / 4)).map (fun t => j * row + q * (row / 4) + t))

/-! ### Hand-off of a product -/

/-- PKG and ADDR of a remote tile descriptor (R261). -/
def descPkg (d : Word) : BitVec 10 := BitVec.ofNat 10 (d.toNat / 2 ^ 54)
def descAddr (d : Word) : Word := BitVec.ofNat 64 (d.toNat % 2 ^ 46 * 2048)
def descBad (d : Word) : Bool := bits d.toNat 53 46 != 0

/-- The limits of MMA and MMAW (R249): none when one is above its bound. -/
def limitsOf (o : FieldsX) (pr : Product) (ps : Word) : Option (Nat × Nat × Nat) :=
  let m := shapeM o.ty
  let k := shapeK o.ty
  let p := ps.toNat
  if pr = .masked ∨ bit p 31 = false then some (m, m, k)
  else if m < bits p 7 0 ∨ m < bits p 15 8 ∨ k < bits p 23 16 then none
  else some (bits p 7 0, bits p 15 8, bits p 23 16)

/-- Does a format belong to TYPE's class (R246)? -/
def fmtFits (ty : BitVec 3) (f : Nat) : Bool :=
  if ty = 0 then f == 0 else if ty = 1 then f == 1 || f == 2 else if ty = 2 then f == 3 else if ty = 3 then f == 4 else f == 5

/-- A scale descriptor of the block: address, block length code, scale format and element format; is it bad (R246)? -/
def scaleBad (addr blk scf fmt : Nat) : Bool :=
  scf == 3 || (blk == 0) != (scf == 0) || (blk != 0 && (fmt == 0 || fmt == 4)) || (addr != 0 && scf == 0)

/-- The illegal format blocks (R246, R254). b is the block. -/
def blockBad (o : FieldsX) (pr : Product) (b : List Byte) : Bool :=
  let w := word8 b 0x18
  let af := bits w 23 20
  let bf := bits w 15 12
  bits w 63 24 != 0 || bits w 7 6 != 0 || bits w 1 0 != 0 || bits w 5 4 == 3 || bits w 3 2 == 3 ||
  decide (6 ≤ af) || decide (6 ≤ bf) || !fmtFits o.ty af ||
  (if pr = .weights then !(bf == 3 || bf == 5) || (bf == 3 && fld o.md 1 0 != 0) else !fmtFits o.ty bf) ||
  scaleBad (word8 b 0) (bits w 19 18) (bits w 17 16) af || scaleBad (word8 b 8) (bits w 11 10) (bits w 9 8) bf ||
  (word8 b 0x10 != 0 && !(o.ty == 4 && pr != .weights))

/-- An override of a bit of FMTC: 0 keeps it, 1 clears it, 2 sets it (R245). -/
def override (code : Nat) (old : Bool) : Bool := if code = 0 then old else code == 2

/-- Block length of a code (R245). -/
def blkLen (code : Nat) : Nat := 8 * 2 ^ code

/-- The byte addresses of an operand's scales (R247). -/
def scaleSpan (o : FieldsX) (addr blk scf : Nat) : List Nat :=
  if scf = 0 then [] else span addr (shapeM o.ty * ceilDiv (shapeK o.ty) (blkLen blk) * scf)

/-- The scales of an operand from their bytes. -/
def scalesFrom (blk scf : Nat) (b : List Byte) : Option (Nat × Nat × List Nat) :=
  if scf = 0 then none
  else some (scf, blkLen blk, (List.range (b.length / scf)).map (fun i => ofBytes ((b.drop (i * scf)).take scf)))

/-- The block as the instruction holds it: its bytes, then those of A's scales, B's scales and the codebooks (R245). -/
def mblockOf (o : FieldsX) (fmtc : Word) (b sa sb cb image : List Byte) : MBlock :=
  let w := word8 b 0x18
  let book (x : List Byte) : List Nat := (List.range 16).map (fun i => ofBytes ((x.drop (2 * i)).take 2))
  { afmt := bits w 23 20, bfmt := bits w 15 12, zsign := override (bits w 5 4) (fmtc.getLsbD 0),
    nanc := override (bits w 3 2) (fmtc.getLsbD 1), scaleA := scalesFrom (bits w 19 18) (bits w 17 16) sa,
    scaleB := scalesFrom (bits w 11 10) (bits w 9 8) sb, cbA := if o.ty = 4 then book cb else [],
    cbB := if o.ty = 4 then book (cb.drop 32) else [], image := image }

/-- The poison trap (R244). -/
def Env.poisoned (e : Env) (d : Nat) : Trap := e.mkTrap 10 0 (BitVec.ofNat 64 d) .word

/-- The slot of an MMAW, when its owner is the crew's region (R251). -/
def Env.ownSlot (e : Env) (o : FieldsX) : Option WSlot :=
  (look o.tb.toNat (e.s.core e.c.core).slots).filter (fun w => w.owner == some e.c.region)

/-- The block, scales and codebooks of a product, or what the word ends in (R245 to R247, R249, R251, R254, R261). Codebooks that
are not 32-byte aligned raise the misalignment trap with their address. DESIGN CHOICE (log 132). -/
def Env.block (e : Env) (o : FieldsX) (pr : Product) (f : State → MBlock → Nat × Nat × Nat → Res) : Res :=
  let fb := e.v.rs o.fb.toNat
  let d := o.dst.toNat
  if fb.toNat % 32 ≠ 0 then .trap e.s (e.misaligned fb)
  else e.access .load false (span fb.toNat 32) (fun t bl =>
    let b := t.plainLoad e.c.core bl
    let w := word8 b 0x18
    if blockBad o pr b then .trap e.s e.illegal
    else if word8 b 0x10 % 32 ≠ 0 then .trap e.s (e.misaligned (BitVec.ofNat 64 (word8 b 0x10)))
    else if bits w 17 16 = 2 ∧ word8 b 0 % 2 ≠ 0 then .trap e.s (e.misaligned (BitVec.ofNat 64 (word8 b 0)))
    else if bits w 9 8 = 2 ∧ word8 b 8 % 2 ≠ 0 then .trap e.s (e.misaligned (BitVec.ofNat 64 (word8 b 8)))
    else
      let va := scaleSpan o (word8 b 0) (bits w 19 18) (bits w 17 16)
      let vb := scaleSpan o (word8 b 8) (bits w 11 10) (bits w 9 8)
      let vc := if o.ty = 4 ∧ pr ≠ .weights then span (word8 b 0x10) 64 else []
      let image := match e.ownSlot o with
        | some x => if pr = .weights then Memory.readBytes x.bytes 0 8192 else []
        | none => []
      match t.locs e.c.core e.c.region .load false (va ++ vb ++ vc) with
      | .error x => .mem e.s x
      | .ok ls =>
        match limitsOf o pr (e.v.rs o.ps.toNat) with
        | none => .trap e.s e.illegal
        | some lim =>
          if pr = .weights ∧ (e.ownSlot o).isNone then .trap e.s e.illegal
          else if (e.v.side d).poison then .trap e.s (e.poisoned d)
          else if (o.ra == 1 && descBad (e.v.rs o.ta.toNat)) || (o.rb == 1 && descBad (e.v.rs o.tb.toNat)) then
            .trap e.s e.illegal
          else
            let x := t.plainLoad e.c.core ls
            f ((t.tlbFill e.c.core (va ++ vb ++ vc)).wakeErrors (bl ++ ls))
              (mblockOf o e.v.sys.fmtc b (x.take va.length) ((x.drop va.length).take vb.length)
                (x.drop (va.length + vb.length)) image) lim)

/-- The run that a word begins, or resumes when RWORD holds it (R264): it reads its local operands now (R240). -/
def Env.sliceRun (e : Env) (o : FieldsX) (pr : Product) (s : State) (blk : MBlock) (lim : Nat × Nat × Nat) : SliceRun :=
  let d := o.dst.toNat
  let sd := e.v.side d
  let go : Bool := bit sd.resume.toNat 63 && sd.rword == e.w
  { id := s.nextId, base := if go then bits sd.resume.toNat 10 8 else 0,
    mapA := if go then BitVec.ofNat 4 (sd.resume.toNat) else 0, mapB := if go then BitVec.ofNat 4 (sd.resume.toNat / 16) else 0,
    blk := blk, lim := lim, ps := e.v.rs o.ps.toNat, opA := e.v.rdBytes .tile o.ta.toNat 0 2048,
    opB := if pr = .weights then [] else e.v.rdBytes .tile o.tb.toNat 0 2048, acc0 := e.v.rdBytes .acc d 0 4096,
    held := if go then sd.held else [], since := s.now }

/-- The operands of a run that are fetched: which of A and B, with their descriptors. -/
def Crew.remotes (c : Crew) (o : FieldsX) : List (Bool × Word) :=
  (if o.ra = 1 then [(false, c.rs o.ta.toNat)] else []) ++ (if o.rb = 1 then [(true, c.rs o.tb.toNat)] else [])

/-- The packages of operands of which a run still lacks a slice. -/
def Crew.awaited (c : Crew) (o : FieldsX) (run : SliceRun) : List (BitVec 10) :=
  ((c.remotes o).filter (fun x => (if x.1 then run.mapB else run.mapA) != 15)).map (fun x => descPkg x.2)

/-- Ask for the slices of a run whose map bits are clear (R262, R264). -/
def State.askSlices (s : State) (r : PathRef) (c : Crew) (o : FieldsX) (run : SliceRun) : State :=
  (c.remotes o).foldl (fun t x =>
    (List.range 4).foldl (fun u q =>
      if (if x.1 then run.mapB else run.mapA).getLsbD q then u
      else u.send (descPkg x.2) false false
        (.sliceRequest r run.id s.pkgId x.1 q (descAddr x.2) (tileRow o.ty))) t) s

/-- The remote-operand fault of a stopped run (R263). -/
def Env.remoteTrap (e : Env) (run : SliceRun) (o : FieldsX) (cause : Nat) : Trap := e.mkTrap 12 cause (run.word o) .word

/-- MMA, MMAT and MMAW (R248). With its slices in place a product completes at once; a slice to fetch from a package without
a route stops it; otherwise its path waits for slices. -/
def product (o : FieldsX) (pr : Product) (e : Env) : Res :=
  e.block o pr (fun t blk lim =>
    let run := e.sliceRun o pr t blk lim
    let s1 : State := { t with nextId := t.nextId + 1 }
    if run.kstep o = 4 then .ok (s1.productEnd e.v run o pr e.w)
    else if (e.v.awaited o run).any (fun k => !s1.reachable k) then
      .trap (s1.sliceStop e.v run o pr e.w) (e.remoteTrap run o 3)
    else .wait (s1.askSlices e.r e.v o run) (.slices run))

def execMma (o : FieldsX) (s : State) : Host.Outcome State Fault Refusal := runWord (.mma o) s (product o .plain)
def execMmat (o : FieldsX) (s : State) : Host.Outcome State Fault Refusal := runWord (.mmat o) s (product o .masked)
def execMmaw (o : FieldsX) (s : State) : Host.Outcome State Fault Refusal := runWord (.mmaw o) s (product o .weights)

/-- The trap of a run that stops after hand-off. -/
def Path.sliceTrap (p : Path) (slate : Word) (run : SliceRun) (o : FieldsX) (cause : Nat) : Trap :=
  { slate := slate, cls := 12, cause := cause, val := run.word o, code := 0, word := p.idx, inst := p.words.getD p.idx 0, resume := .word,
    batch := none, bar := none }

/-- A run stops with a remote-operand fault (R263). -/
def State.sliceFail (s : State) (r : PathRef) (run : SliceRun) (cause : Nat) : State :=
  match s.crew? r.crew, s.path? r with
  | some c, some p =>
    match p.here.bind productOf with
    | some (o, pr) =>
      ((s.under r (fun u => u.sliceStop c run o pr (p.words.getD p.idx 0))).updPath r (fun x => { x with wait := .none })).takeTrap r
        (p.sliceTrap s.slate run o cause)
    | none => s
  | _, _ => s

/-- The bytes of an operand with a slice in its place. -/
def putSlice (places : List Nat) (data op : List Byte) : List Byte :=
  ((places.zip data).foldl (fun a x => a.setIfInBounds x.1 x.2) op.toArray).toList

/-- A run with slice q of an operand arrived. -/
def SliceRun.withSlice (run : SliceRun) (ty : BitVec 3) (opB : Bool) (q : Nat) (data : List Byte) : SliceRun :=
  let ps := slicePlaces (tileRow ty) q
  if opB then { run with mapB := run.mapB ||| (1#4 <<< q), opB := putSlice ps data run.opB }
  else { run with mapA := run.mapA ||| (1#4 <<< q), opA := putSlice ps data run.opA }

/-- Does a run wait for slice q of an operand? -/
def SliceRun.lacks (run : SliceRun) (opB : Bool) (q : Nat) : Bool :=
  decide (q < 4) && !(if opB then run.mapB else run.mapA).getLsbD q

/-- A slice enters its staging tile, and the last one ends the product (R262, R263). -/
def State.sliceIn (s : State) (r : PathRef) (p : Path) (x : SliceRun) (o : FieldsX) (pr : Product) (opB : Bool) (q : Nat)
    (data : List Byte) : State :=
  let y := x.withSlice o.ty opB q data
  let put (u : State) : State := u.updCrew r.crew (fun c =>
    c.putBytes .tile (if opB then o.tb.toNat else o.ta.toNat) ((slicePlaces (tileRow o.ty) q).zip data))
  if y.kstep o = 4 then
    (s.under r (fun u =>
      match (put u).crew? r.crew with
      | some c => (put u).productEnd c y o pr (p.words.getD p.idx 0)
      | none => put u)).advance r
  else (s.under r put).updPath r (fun z => { z with wait := .slices y })

/-- SLICE_ARRIVAL (R262, R263): a slice enters its staging tile, and the last one ends the product; a failure stops it. One that
has come already does nothing. -/
def execSliceArrival (r : PathRef) (run : Nat) (opB : Bool) (q : Nat) (data : List Byte) (fail : Option (BitVec 7))
    (s : State) : Host.Outcome State Fault Refusal :=
  .next (match s.path? r with
    | none => s
    | some p =>
      match p.wait, p.here.bind productOf with
      | .slices x, some (o, pr) =>
        if x.id ≠ run ∨ x.lacks opB q = false then s
        else
          match fail with
          | some k => s.sliceFail r x k.toNat
          | none => s.sliceIn r p x o pr opB q data
      | _, _ => s)

/-! ### Moves (R252, R255, R256) -/

/-- WBLD (R251, R252): the bytes of a slot that another region owned do not survive. -/
def execWbld (o : FieldsM) (s : State) : Host.Outcome State Fault Refusal :=
  runWord (.wbld o) s (fun e =>
    e.access .load false (span (addrA e.v o).toNat (1024 * (fld o.md 2 0 + 1))) (fun t ls =>
      let old := (look o.dst.toNat (e.s.core e.c.core).slots).getD { owner := none, bytes := [] }
      let kept := if old.owner = some e.c.region then old.bytes else []
      let new : WSlot := { owner := some e.c.region, bytes := Memory.writeBytes kept 0 (t.plainLoad e.c.core ls) }
      .ok ((t.wakeErrors ls).updCore e.c.core (fun c => { c with slots := put o.dst.toNat new c.slots }))))

/-- The memory address of register byte k of a row layout: rows of w bytes (R255). -/
def rowAddr (e : Env) (o : FieldsM) (w k : Nat) : Nat :=
  let st := e.v.rs (o.base.toNat + 1)
  rowAt (addrA e.v o) (if st = 0 then BitVec.ofNat 64 w else st) (k / w) (k % w)

/-- The memory addresses of a tile's bytes (R255); none when a column layout is misaligned. -/
def tileAddrs (e : Env) (o : FieldsM) : Option (List Nat) :=
  let a := (addrA e.v o).toNat
  if o.md.toNat ≤ 1 then some ((List.range 2048).map (rowAddr e o (64 * (o.md.toNat + 1))))
  else if layoutBad (o.md - 1) a then none
  else some ((List.range 2048).map (layout (o.md - 1) a))

/-- Does a tile word use column lines (R195, R255)? -/
def tileCols (o : FieldsM) : Bool := decide (1 < o.md.toNat)

/-- The memory addresses of an accumulator's bytes, all or the first half (R255). -/
def accAddrs (e : Env) (o : FieldsM) : List Nat :=
  (List.range (if o.md = 0 then 4096 else 2048)).map (rowAddr e o 128)

/-- TLD. -/
def execTld (o : FieldsM) (s : State) : Host.Outcome State Fault Refusal :=
  runWord (.tld o) s (fun e =>
    match tileAddrs e o with
    | none => .trap e.s (e.misaligned (addrA e.v o))
    | some vas => e.accessBy (tileCols o) .load false vas (fun t ls =>
        .ok ((t.wakeErrors ls).updCrew e.r.crew (fun c => c.wrBytes .tile o.dst.toNat 0 (t.plainLoad e.c.core ls)))))
/-- TST: where rows overlap the highest-numbered row's bytes are stored (R256). -/
def execTst (o : FieldsM) (s : State) : Host.Outcome State Fault Refusal :=
  runWord (.tst o) s (fun e =>
    match tileAddrs e o with
    | none => .trap e.s (e.misaligned (addrA e.v o))
    | some vas => e.accessBy (tileCols o) .store false vas (fun t ls =>
        .ok (t.plainStore e.c.core (ls.zip (e.v.rdBytes .tile o.dst.toNat 0 2048)))))

/-- Any other matrix word that names an accumulator clears RESUME and RWORD (R264). -/
def Crew.clearResume (c : Crew) (d : Nat) : Crew := c.wside d { c.side d with resume := 0, rword := 0, held := [] }

/-- ALD: the full form clears POISON too; the half form traps on it (R244, R256). -/
def execAld (o : FieldsM) (s : State) : Host.Outcome State Fault Refusal :=
  runWord (.ald o) s (fun e =>
    let d := o.dst.toNat
    if o.md ≠ 0 ∧ (e.v.side d).poison then .trap e.s (e.poisoned d)
    else e.access .load false (accAddrs e o) (fun t ls =>
      .ok ((t.wakeErrors ls).updCrew e.r.crew (fun c =>
        (c.wrBytes .acc d 0 (t.plainLoad e.c.core ls)).wside d { poison := false, resume := 0, rword := 0 }))))
/-- AST. -/
def execAst (o : FieldsM) (s : State) : Host.Outcome State Fault Refusal :=
  runWord (.ast o) s (fun e =>
    let d := o.dst.toNat
    if (e.v.side d).poison then .trap e.s (e.poisoned d)
    else e.access .store false (accAddrs e o) (fun t ls =>
      .ok ((t.plainStore e.c.core (ls.zip (e.v.rdBytes .acc d 0 (if o.md = 0 then 4096 else 2048)))).updCrew e.r.crew
        (fun c => c.clearResume d))))

/-! ### Clearing, rescaling and converting (R257, R258) -/

/-- ACLR. -/
def execAclr (o : FieldsX) (s : State) : Host.Outcome State Fault Refusal :=
  runWord (.aclr o) s (fun e =>
    .ok (e.s.updCrew e.r.crew (fun c =>
      (c.wrBytes .acc o.dst.toNat 0 (List.replicate 4096 0)).wside o.dst.toNat { poison := false, resume := 0, rword := 0 })))

/-- ASAT (R90). -/
def Crew.asat (c : Crew) : Bool := c.sys.fmtc.getLsbD 2

/-- An overflow to infinity saturates when asked (R257, R258). -/
def saturate (f : Fmt) (asat : Bool) (x : FVal) (r : Nat) : Nat :=
  if asat && x.isFinite && (f.decode r).isInf then f.maxBits x.isNeg else r

/-- ASCL: each element times 2^j (R257). -/
def execAscl (o : FieldsX) (s : State) : Host.Outcome State Fault Refusal :=
  runWord (.ascl o) s (fun e =>
    let d := o.dst.toNat
    let f := accFmt o.ty
    let w := accBytes o.ty
    let j := scaleExp ((e.v.rs o.ps.toNat).toNat % 2 ^ 32)
    let one (b : Nat) : Nat :=
      let x := (f.decode b).scale j
      if x.isNan then f.nanBits else saturate f e.v.asat x (f.round 0 x).1
    if (e.v.side d).poison then .trap e.s (e.poisoned d)
    else
      let old := (e.v.rdBytes .acc d 0 (if o.ty = 0 then 2048 else 4096)).toArray
      let new := (List.range (old.size / w)).flatMap (fun i => toBytes w (one (patternAt old w i)))
      .ok (e.s.updCrew e.r.crew (fun c => (c.wrBytes .acc d 0 new).clearResume d)))

/-- The element of C that ACVT converts, as an exact value (R258). -/
def acvtSource (ty : BitVec 3) (b : Nat) : FVal :=
  if ty = 0 then fp64.decode b else if ty = 1 then fp32.decode b else intVal (sextInt 32 b)

/-- The pattern of a converted element for target code F (R258). -/
def acvtTarget (cb : List Nat) (f rm : Nat) (asat : Bool) (y : FVal) : Nat :=
  if f = 0 then saturate bf16 asat y (bf16.round rm y).1
  else if f = 1 then saturate fp16 asat y (fp16.round rm y).1
  else if f = 2 then (mk8Encode rm y).1
  else if f = 3 then (floatToInt true 8 rm y).1
  else if f = 4 then (cb4Encode cb y).1
  else saturate fp64 asat y (fp64.round rm y).1

/-- Place element (m, n) of a part into a tile's bytes (R258). -/
def acvtBytes (f q m n x : Nat) (t : Array Byte) : Array Byte :=
  if f = 4 then
    let i := m * 128 + 32 * q + n
    t.setIfInBounds (i / 2) (BitVec.ofNat 8 (setNibble (t.getD (i / 2) 0).toNat (i % 2) x))
  else if f = 2 ∨ f = 3 then t.setIfInBounds (m * 64 + 32 * q + n) (BitVec.ofNat 8 x)
  else
    let w := if f = 5 then 8 else 2
    let i := if f = 5 then m * 16 + n else m * 32 + n
    (List.range w).foldl (fun u j => u.setIfInBounds (i * w + j) (BitVec.ofNat 8 (x / 256 ^ j))) t

/-- ACVT. -/
def execAcvt (o : FieldsX) (s : State) : Host.Outcome State Fault Refusal :=
  runWord (.acvt o) s (fun e =>
    let a := fld o.md 4 0
    let f := fld o.md 7 5
    let m := shapeM o.ty
    let j := scaleExp ((e.v.rs o.ps.toNat).toNat % 2 ^ 32)
    let acc := (e.v.rdBytes .acc a 0 4096).toArray
    if (e.v.side a).poison then .trap e.s (e.poisoned a)
    else
      let new := (List.range (m * m)).foldl (fun t i =>
        acvtBytes f (fld o.md 11 10) (i / m) (i % m)
          (acvtTarget e.v.codebook f (fld o.md 9 8) e.v.asat
            ((acvtSource o.ty (patternAt acc (accBytes o.ty) i)).scale (-j))) t)
        (e.v.rdBytes .tile o.dst.toNat 0 2048).toArray
      .ok (e.s.updCrew e.r.crew (fun c => (c.wrBytes .tile o.dst.toNat 0 new.toList).clearResume a)))

/-! ### Signatures (R259, R260) -/

/-- TSIG folded with n words of a register (R259). -/
def Crew.foldReg (c : Crew) (k : Kind) (num n : Nat) : Crew :=
  let h := foldWords c.sys.tsig.toNat (Memory.words c.urs (c.offset k num) n)
  { c with sys := { c.sys with tsig := BitVec.ofNat 64 h } }

/-- TSIG of a tile. -/
def execTsigTile (o : FieldsX) (s : State) : Host.Outcome State Fault Refusal :=
  runWord (.tsigTile o) s (fun e =>
    .ok (e.s.updCrew e.r.crew (fun c => c.foldReg .tile o.ta.toNat (4 * Config.creww))))
/-- TSIG of an accumulator. -/
def execTsigAcc (o : FieldsX) (s : State) : Host.Outcome State Fault Refusal :=
  runWord (.tsigAcc o) s (fun e =>
    let d := o.dst.toNat
    if (e.v.side d).poison then .trap e.s (e.poisoned d)
    else .ok (e.s.updCrew e.r.crew (fun c => (c.foldReg .acc d (8 * Config.creww)).clearResume d)))

/-- TSCHK: a mismatch posts the recompute-mismatch event (R260, R369). -/
def execTschk (o : FieldsM) (s : State) : Host.Outcome State Fault Refusal :=
  runWord (.tschk o) s (fun e =>
    let a := addrA e.v o
    if a.toNat % 8 ≠ 0 then .trap e.s (e.misaligned a)
    else e.access .load false (span a.toNat 8) (fun t ls =>
      let x := ofBytes (t.plainLoad e.c.core ls)
      let u := t.wakeErrors ls
      let d := o.dst.toNat
      if x = e.v.sys.tsig.toNat then .ok (u.ws e.r.crew d 0)
      else .ok ((u.postWords [u.slate.toNat, e.c.core, a.toNat, x, e.v.sys.tsig.toNat] 4).ws e.r.crew d 1)))

end Sys2Proof.Machine
end

