-- ==== Sys2Proof/Machine/Fabric.lean ====
section
/-! DEFINITION. The fabric instructions and transfers (R305 to R319, R322): descriptors, the engine's flits, arrivals,
completion and failure, remote atomics, armed counters, and VRDCM. -/

namespace Sys2Proof.Machine

/-! ### Descriptors (R305, R307) -/

/-- A descriptor from its 64 bytes. -/
def fabDesc (b : List Byte) : FabDesc :=
  let w := word8 b 0x10
  { src := BitVec.ofNat 64 (word8 b 0), dst := BitVec.ofNat 64 (word8 b 8), len := w / 2 ^ 32,
    pkg := BitVec.ofNat 10 (bits w 25 16), rank := BitVec.ofNat 6 w, cnta := BitVec.ofNat 64 (word8 b 0x18),
    maska := BitVec.ofNat 64 (word8 b 0x20), deadline := BitVec.ofNat 64 (word8 b 0x28) }

/-- Element bytes of a reduction (R306). -/
def redSize : RedType → Nat
  | .f32 => 4
  | .bf16 => 2
  | .i32 => 4
  | .f64 => 8

/-- The illegal descriptors (R307 check 3). red is the element type of an RRED; put says RPUT. -/
def descIllegal (b : List Byte) (cls : XferClass) (put : Bool) (red : Option RedType) : Bool :=
  let w := word8 b 0x10
  let d := fabDesc b
  bits w 31 26 != 0 || bits w 15 6 != 0 || word8 b 0x30 != 0 || word8 b 0x38 != 0 ||
  (red.isNone && d.rank != 0) ||
  (cls != .lossy && d.deadline != 0) ||
  (cls == .lossy && (decide (d.dst.toNat % 256 ≠ 0) || d.maska == 0 || (put && decide (d.len % 256 ≠ 0)))) ||
  (match red with
   | some t => decide (d.dst.toNat % 256 ≠ 0) || decide (d.src.toNat % redSize t ≠ 0) || decide (d.len % redSize t ≠ 0)
   | none => false) ||
  decide (d.cnta.toNat % 8 ≠ 0)

/-- A transfer class of MOD [1:0] (R306). -/
def xferClass (md : BitVec 5) : XferClass := if fld md 1 0 = 1 then .ord else if fld md 1 0 = 2 then .lossy else .rel
/-- The element type of RRED. -/
def redType (md : BitVec 5) : RedType :=
  if fld md 4 2 = 1 then .bf16 else if fld md 4 2 = 2 then .i32 else if fld md 4 2 = 3 then .f64 else .f32

/-- Has the fabric engine room for a transfer (R307)? -/
def State.fabricRoom (s : State) : Bool :=
  decide ((s.copies.filter (fun c => !c.kind.isDolly && c.running)).length < Config.fabricRoom)

/-- A transfer joins the open batch, or its word waits in the engine for room with its descriptor read (R305, R307, R308). -/
def Env.startXfer (e : Env) (s : State) (k : CopyKind) : Res :=
  match k.xfer with
  | none => .stall
  | some (d, cls, _) =>
    if !s.fabricRoom then .wait s (.room k)
    else
      let n := seqOf d.pkg s.fab.seqOut
      let t := s.addCopy e k (if cls = .ord then n else 0)
      .ok (if cls = .ord ∧ !(k matches .get _ _) then { t with fab := { t.fab with seqOut := setSeq d.pkg (n + 1) t.fab.seqOut } }
        else t)

/-- RPUT, RGET and RRED (R307, R308): the release, the checks in their order, and the transfer joins the open batch. -/
def transfer (o : FieldsM) (cls : XferClass) (put : Bool) (red : Option RedType) (mk : FabDesc → CopyKind) (e : Env) : Res :=
  match e.p.wait with
  | .room k => e.startXfer e.s k
  | _ =>
    let p := e.s.publish e.c.core
    let a := addrA e.v o
    if a.toNat % 64 ≠ 0 then .trap p (e.misaligned a)
    else
      match p.gRead e.c.core e.c.region a.toNat 64 with
      | .error f => .mem p f
      | .ok b =>
        let q := p.gTouch e.c.core e.c.region a.toNat 64
        if descIllegal b cls put red then .trap q e.illegal else e.startXfer q (mk (fabDesc b))

/-- RPUT. -/
def execRput (o : FieldsM) (s : State) : Host.Outcome State Fault Refusal :=
  runWord (.rput o) s (transfer o (xferClass o.md) true none (.put (xferClass o.md)))
/-- RGET. -/
def execRget (o : FieldsM) (s : State) : Host.Outcome State Fault Refusal :=
  runWord (.rget o) s (transfer o (xferClass o.md) false none (.get (fld o.md 0 0 == 1)))
/-- RRED. -/
def execRred (o : FieldsM) (s : State) : Host.Outcome State Fault Refusal :=
  runWord (.rred o) s
    (transfer o (xferClass o.md) false (some (redType o.md)) (.red (xferClass o.md) (redType o.md)))

/-! ### What a transfer carries -/

/-- Pieces of 64 bytes of a transfer, and blocks of 256. -/
def pieceCount (len : Nat) : Nat := ceilDiv len 64
def blockCount (len : Nat) : Nat := ceilDiv len 256
/-- The pieces of a block. -/
def blockPieces (len b : Nat) : List Nat := (List.range (pieceCount len)).filter (fun i => i / 4 == b)

/-! ### Completion and failure (R309, R311) -/

/-- Bytes that a transfer of this package is about to write here count as its copy's (R214, R216). -/
def State.noteWrote (s : State) (h : XferHdr) (ls : List Loc) : State :=
  if h.src = s.pkgId then s.updCopy h.id (fun c => c.noting s ls) else s

/-- Write bytes that a transfer leaves here; a wake register among them sets its WERR (R371). -/
def State.xferStore (s : State) (h : XferHdr) (ws : List (Loc × Byte)) : State :=
  let ls := ws.map (fun q => q.1)
  ((if h.src = s.pkgId then (s.noteWrote h ls).crewStore noCore ws else s.directStore noCore ws)).agentTouch ls

/-- A transfer into this package fails here (R311): its end, and word to the source. -/
def State.incomingFail (s : State) (h : XferHdr) (cause : Nat) (addr : Word) : State :=
  (s.incomingEnd h).addJob 0 (some h.src) 1 (.failed h.id (BitVec.ofNat 7 cause) addr)

/-- The 256 bytes of a block of a lossy transfer when all its flits are there (R312). -/
def Incoming.intact (x : Incoming) (b : Nat) : Option (List Byte) :=
  let mine := x.flits.filter (fun q => q.1 == b)
  let need := (blockPieces x.hdr.len b).length
  if mine.length < need then none
  else some ((List.range need).flatMap (fun j => (mine.find? (fun q => q.2.1 == j)).elim [] (fun q => q.2.2)))

/-- The blocks of a lossy transfer that are intact and not written. -/
def Incoming.waiting (x : Incoming) : List (Nat × List Byte) :=
  ((x.flits.map (fun q => q.1)).dedup.filter (fun b => !x.got.contains b)).filterMap (fun b =>
    (x.intact b).map (fun d => (b, d)))

/-- A memory fault of a transfer into this package: a replayable one holds it, from when it was first met, a fatal one fails
it (R217, R311). -/
def State.incomingFault (s : State) (h : XferHdr) (f : MemFault) : State :=
  if f.replayable then
    s.updIncoming (xferKey h) (fun x =>
      { x with hold := some (f, match x.hold with | some q => if q.1 = f then q.2 else s.now | none => s.now) })
  else s.incomingFail h 1 f.va

/-- Are all pieces, or all blocks of a lossy transfer, done? -/
def Incoming.whole (x : Incoming) : Bool :=
  (List.range (if x.hdr.cls = .lossy then blockCount x.hdr.len else pieceCount x.hdr.len)).all (fun i => x.got.contains i)

/-- A transfer of this package fails with the remote-operand fault (R311): its batch is faulted with the failing address, and the
destination is told. -/
def State.transferFail (s : State) (c : Copy) (cause : Nat) (addr : Word) : State :=
  s.copyFail c { cls := 12, cause := cause, va := addr, replayable := false }

/-! ### Landing (R309, R312, R314) -/

/-- What an access of a transfer needs of a page (R362): RRED adds and ORs, which are atomic. -/
def landKind (h : XferHdr) : AccKind := if h.red.isSome then .atomic else .store

/-- Where bytes of a transfer lie: a lossy one uses the pages translated with its header. They are those of no core and region, also
in a transfer of this package to itself (R322), so that a cluster aperture has no scratch bank there. DESIGN CHOICE (log 145). -/
def State.landLocs (s : State) (x : Incoming) (vas : List Nat) : Except MemFault (List Loc) :=
  s.locsWith noCore 0 (landKind x.hdr) false vas x.pages

/-- The byte of the validity mask of a block, and its address (R305). -/
def maskByteAddr (h : XferHdr) (b : Nat) : Nat := (h.maska.toNat + b / 8) % 2 ^ 64

/-- Set or clear the bit of a block. -/
def State.maskBit (s : State) (h : XferHdr) (ls : List Loc) (b : Nat) (on : Bool) : State :=
  match ls.head? with
  | none => s
  | some l =>
    let old := (s.readLoc noCore true l).toNat
    let bitv := 2 ^ (b % 8)
    let new := if on then old ||| bitv else old &&& (255 - bitv)
    s.xferStore h [(l, BitVec.ofNat 8 new)]

/-- One element add of RRED (R314). -/
def redAdd (t : RedType) (a b : Nat) : Nat :=
  let f (g : Fmt) : Nat := (g.finish 0 (FVal.add 0 (g.decode a) (g.decode b))).1
  match t with
  | .f32 => f fp32
  | .bf16 => f bf16
  | .f64 => f fp64
  | .i32 => (a + b) % 2 ^ 32

/-- The bytes that a reduction leaves: each element added to the old one. -/
def redBytes (t : RedType) (old new : List Byte) : List Byte :=
  ((pieces (redSize t) (old.length / redSize t) old).zip (pieces (redSize t) (new.length / redSize t) new)).flatMap (fun q =>
    toBytes (redSize t) (redAdd t (ofBytes q.1) (ofBytes q.2)))

/-- Write or add bytes of a transfer at their places. -/
def State.land (s : State) (h : XferHdr) (ls : List Loc) (data : List Byte) : State :=
  let new := match h.red with
    | none => data
    | some t => redBytes t (ls.map (s.readLoc noCore true)) data
  s.xferStore h (ls.zip new)

/-- The bit that a block sets when it is done: a validity bit, or for RRED the contributor's bit of the chunk (R314). -/
def blockMarkAddrs (h : XferHdr) (b : Nat) : List Nat :=
  if h.maska = 0 then []
  else match h.red with
    | none => [maskByteAddr h b]
    | some _ => span (h.maska.toNat + 8 * b) 8
def State.blockMark (s : State) (h : XferHdr) (b : Nat) (ls : List Loc) : State :=
  if ls.isEmpty then s
  else match h.red with
    | none => s.maskBit h ls b true
    | some _ =>
      let old := ofBytes (ls.map (s.readLoc noCore true))
      s.xferStore h (ls.zip (toBytes 8 (old ||| 2 ^ h.rank.toNat)))

/-- A piece of a reliable transfer lands (R309 steps 1 and 2, R310, R311): the second part says that it must wait, for an
earlier ordered transfer or for a page. -/
def State.landPiece (s0 : State) (h : XferHdr) (off : Nat) (data : List Byte) : State × Bool :=
  let s := if (s0.incoming? (xferKey h)).isSome then s0 else s0.addIncoming (newIncoming h)
  match s.incoming? (xferKey h) with
  | none => (s, false)
  | some x =>
    let i := off / 64
    if x.finished ∨ x.got.contains i then
      (if x.finished ∧ x.failed = false then s.addJob 0 (some h.src) 1 (.ack h.id) else s, false)
    else if x.late s.now then (s.incomingFail h 4 h.dst, false)
    else if h.cls = .ord ∧ h.src ≠ s.pkgId ∧ h.seq ≠ seqOf h.src s.fab.seqIn then (s, true)
    else if h.len = 0 then (s, false)
    else
      let b := i / 4
      let ends : Bool := (blockPieces h.len b).all (fun j => j == i || x.got.contains j)
      let marks := if ends then blockMarkAddrs h b else []
      match s.landLocs x (span (h.dst.toNat + off) data.length ++ marks) with
      | .error f => (s.incomingFault h f, f.replayable)
      | .ok ls =>
        let t := (s.land h (ls.take data.length) data).updIncoming (xferKey h) (fun y =>
          { y with got := insertNat i y.got, hold := none })
        (t.blockMark h b (ls.drop data.length), false)

/-! ### Instructions on remote words: RATOM, RMSK (R315, R316) -/

/-- The package of a RATOM: bits [9:0] of s[BASE + 1] (R306). -/
def atomPkg (c : Crew) (o : FieldsM) : BitVec 10 := (c.rs (o.base.toNat + 1)).setWidth 10

/-- The request of a RATOM. -/
def State.atomRequest (s : State) (c : Crew) (o : FieldsM) (id : Nat) : AtomReq :=
  { id := id, src := s.pkgId, addr := addrA c o, ty := o.ty, op := o.md.setWidth 4, x := c.rs o.dst.toNat, since := s.now }

/-- The queue of a RATOM that is a wake store of its target: an 8-byte exchange with one of its wake registers (R315). -/
def wakeQueueOf (a : AtomReq) (pkg : BitVec 10) : Option Nat :=
  let o := a.addr.toNat - wakeBase
  if a.op = 7 ∧ atomBytes a.ty = 8 ∧ wakeBase ≤ a.addr.toNat ∧ a.addr.toNat < holeBase ∧ o / 512 = pkg.toNat then
    some (o % 512 / 8) else none

/-- RATOM (R315). As a wake store it is a release at system scope (R23) and is done at once; an acquire order refreshes. -/
def execRatom (o : FieldsM) (s : State) : Host.Outcome State Fault Refusal :=
  runWord (.ratom o) s (fun e =>
    let a := addrA e.v o
    let pkg := atomPkg e.v o
    let die := dieOf e.c.core
    if a.toNat % atomBytes o.ty ≠ 0 then .trap e.s (e.misaligned a)
    else if !e.s.reachable pkg then .trap e.s (e.mkTrap 12 3 a .word)
    else
      match wakeQueueOf (e.s.atomRequest e.v o 0) pkg with
      | some k =>
        let t := ((e.s.publish e.c.core).addJob die (some pkg) 1 (.wake k (e.v.rs o.dst.toNat))).ws e.r.crew o.dst.toNat 0
        .ok (if isAcquire o.ord then t.refresh e.c.core else t)
      | none =>
        let p := if isRelease o.ord then e.s.publish e.c.core else e.s
        let q := p.atomRequest e.v o p.nextId
        let t : State := { p with nextId := p.nextId + 1 }
        .wait (t.addJob die (some pkg) 1 (.atomRequest q)) (.ratom q o.dst.toNat (isAcquire o.ord) pkg))

/-- The end of a RATOM (R315): the old value, or the remote-operand fault. -/
def State.ratomEnd (s : State) (id : Nat) (old : Option Word) (cause : Nat) : State :=
  s.allPaths.foldl (fun u q =>
    match q.2.wait with
    | .ratom a dst acq _ =>
      if a.id ≠ id then u
      else
        match old, u.crew? q.1.crew with
        | some x, some c =>
          let t := u.setOwn q.1 dst (atomExt a.ty x.toNat)
          (if acq then t.refresh c.core else t).advance q.1
        | _, _ =>
          (u.updPath q.1 (fun p => { p with wait := .none })).takeTrap q.1
            { slate := u.slate, cls := 12, cause := cause, val := a.addr, code := 0, word := q.2.idx, inst := q.2.words.getD q.2.idx 0,
              resume := .word, batch := none, bar := none }
    | _ => u) s

/-- The record of an atomic performed here, so that a request that comes again is answered and not performed again. -/
def atomDone (a : AtomReq) (old : Word) : Incoming :=
  { newIncoming { id := a.id, src := a.src, cls := .rel, seq := 0, dst := a.addr, len := 0, cnta := 0, maska := 0,
                    deadline := 0, red := none, rank := 0 } with flits := [(0, 0, toBytes 8 old.toNat)], finished := true }

/-- The core of a path of this package that waits for an atomic of its own (R315). -/
def State.atomCore (s : State) (a : AtomReq) : Option Nat :=
  if a.src ≠ s.pkgId then none
  else
    s.crews.findSome? (fun c =>
      if c.allPaths.any (fun q => match q.2.wait with | .ratom x _ _ _ => x.id == a.id | _ => false) then some c.core else none)

/-- Has the transfer timeout of an atomic passed, so that its crew has taken the fault (R311, R315)? The tick at which it was
issued comes with the request. DESIGN CHOICE (log 112). -/
def atomLate (a : AtomReq) (now : Nat) : Bool := decide (a.since + Config.replayBound < now)

/-- The access of a remote atomic (R315): one synchronising access at fabric scope on this package's G. For a crew of this package
its core's bytes take part as R204 has it. An 8-byte exchange on a wake register is a wake store, and returns 0. A failure records
nothing here; a replayable fault waits for its page. -/
def State.performAtomic (s : State) (a : AtomReq) : State :=
  match s.locs noCore 0 .atomic false (span a.addr.toNat (atomBytes a.ty)) with
  | .error f =>
    if f.replayable then s.addJob 0 none 0 (.atomRequest a)
    else s.addJob 0 (some a.src) 1 (.atomReply a.id none 1)
  | .ok ls =>
    match (if (wakePart ls).isEmpty then none else wakeQueueOf a s.pkgId) with
    | some k =>
      ((s.post (.wakeStore k 8 true a.x)).addIncoming (atomDone a 0)).addJob 0 (some a.src) 1 (.atomReply a.id (some 0) 0)
    | none =>
    let n := atomBytes a.ty
    let op (old : Nat) : Option Nat := some (atomNew a.ty a.op.toNat old (a.x.toNat % 2 ^ (8 * n)))
    let q := match s.atomCore a with
      | some k => s.sync k true false false ls op
      | none =>
        let old := ofBytes (ls.map (s.readLoc noCore true))
        (s.directStore noCore (ls.zip (toBytes n ((op old).getD old))), old)
    ((q.1.agentTouch ls).addIncoming (atomDone a (BitVec.ofNat 64 q.2))).addJob 0 (some a.src) 1
      (.atomReply a.id (some (BitVec.ofNat 64 q.2)) 0)

/-- REMOTE_ATOMIC (R315): a request that has been performed is answered again; one whose timeout has passed is performed no
more. -/
def execRemoteAtomic (a : AtomReq) (s : State) : Host.Outcome State Fault Refusal :=
  .next (match s.incoming? (inKey a.src a.id) with
    | some x =>
      s.addJob 0 (some a.src) 1 (.atomReply a.id (some (BitVec.ofNat 64 (ofBytes ((x.flits.headD (0, 0, [])).2.2)))) 0)
    | none =>
      if atomLate a s.now then s
      else (s.openFor noCore 0 .atomic (span a.addr.toNat (atomBytes a.ty))).performAtomic a)

/-- REMOTE_READ_REQUEST (R319): the bytes of this package's G at the moment of the read; a get of this package from itself reads
its source as it was (R216, R322). The reply names the address. -/
def execRemoteReadRequest (id : Nat) (src : BitVec 10) (addr : Word) (len : Nat) (s : State) :
    Host.Outcome State Fault Refusal :=
  .next (match s.locs noCore 0 .load false (span addr.toNat len) with
    | .error f =>
      if f.replayable then s.addJob 0 none 0 (.getRequest id src addr len)
      else s.addJob 0 (some src) 1 (.failed id 1 f.va)
    | .ok ls =>
      let rd : Loc → Byte := match s.copy? id with
        | some c => if src = s.pkgId then s.copySees c else s.readLoc noCore true
        | none => s.readLoc noCore true
      (s.agentTouch ls).addJob 0 (some src) 1 (.getData id addr.toNat (ls.map rd)))

/-- RMSK.rd: a synchronising load at fabric scope with acquire (R316). -/
def execRmskRd (o : FieldsM) (s : State) : Host.Outcome State Fault Refusal :=
  runWord (.rmskRd o) s (fun e =>
    let a := addrA e.v o
    if a.toNat % 8 ≠ 0 then .trap e.s (e.misaligned a)
    else e.access .load false (span a.toNat 8) (fun t ls =>
      let q := t.sync e.c.core true false true ls (fun _ => none)
      let d := o.dst.toNat
      .ok (((q.1.wakeErrors ls).ws e.r.crew d (BitVec.ofNat 64 q.2)).ws e.r.crew (d + 1)
        (BitVec.ofNat 64 (popcount 64 q.2)))))

/-- RMSK.arm (R316): the group of packages is read by a plain load, and then the counter's alignment is asked; the counter is
not accessed before a package is lost. -/
def execRmskArm (o : FieldsM) (s : State) : Host.Outcome State Fault Refusal :=
  runWord (.rmskArm o) s (fun e =>
    let a := addrA e.v o
    let g := e.v.rs o.dst.toNat
    if g.toNat % 64 ≠ 0 then .trap e.s (e.misaligned g)
    else e.access .load false (span g.toNat 128) (fun t gl =>
      let u := t.wakeErrors gl
      let out (u : State) (st : Word) : Res := .ok (u.ws e.r.crew (o.dst.toNat + 1) st)
      if a.toNat % 8 ≠ 0 then .trap e.s (e.misaligned a)
      else if u.fab.armed.any (fun x => x.addr == a) then out u 2
      else if 256 ≤ u.fab.armed.length then out u 1
      else
        let x : Armed := { addr := a, core := e.c.core, group := t.plainLoad e.c.core gl, region := e.c.region }
        out { u with fab := { u.fab with armed := u.fab.armed ++ [x] } } 0))

/-- RMSK.disarm. -/
def execRmskDisarm (o : FieldsM) (s : State) : Host.Outcome State Fault Refusal :=
  runWord (.rmskDisarm o) s (fun e =>
    let a := addrA e.v o
    let st : Word := if e.s.fab.armed.any (fun x => x.addr == a) then 0 else 1
    .ok ({ e.s with fab := { e.s.fab with armed := e.s.fab.armed.filter (fun x => x.addr != a) } }.ws e.r.crew
      (o.dst.toNat + 1) st))

/-! ### VRDCM (R318) -/

/-- The reduction descriptor. -/
structure RedDesc where
  base : Word
  stride : Word
  mbase : Word
  mstride : Word
  n : Nat
  deriving DecidableEq, Repr

/-- A descriptor from its 32 bytes; none when N or a reserved bit is bad. -/
def redDesc (b : List Byte) : Option RedDesc :=
  let w := word8 b 0x18
  if bits w 31 7 ≠ 0 ∨ bits w 6 0 = 0 ∨ 64 < bits w 6 0 then none
  else some { base := BitVec.ofNat 64 (word8 b 0), stride := BitVec.ofNat 64 (word8 b 8),
              mbase := BitVec.ofNat 64 (word8 b 0x10), mstride := wordOf (sextInt 32 (w / 2 ^ 32)), n := bits w 6 0 }

/-- The mask bytes that lane i reads: one for each contribution, or the word of its chunk. -/
def vrdcmMaskAddrs (acc : Bool) (d : RedDesc) (x : Nat) : List Nat :=
  let b := x / 256
  if acc then span (d.mbase.toNat + 8 * b) 8
  else (List.range d.n).map (fun c => rowAt d.mbase d.mstride c (b / 8))
/-- Is contribution c valid, given those bytes? -/
def vrdcmValid (acc : Bool) (x c : Nat) (b : List Byte) : Bool :=
  if acc then (ofBytes b).testBit c else (b.getD c 0).toNat.testBit (x / 256 % 8)

/-- The result of one element from the valid contributions' patterns (R318): scaled by N ÷ |V|, one rounding. -/
def vrdcmElem (f : Fmt) (m n k : Nat) (ps : List Nat) : Nat × Flags :=
  if k = 0 then (0, 0)
  else
    let vs := ps.map f.decode
    let sum := match vs with
      | [] => (FVal.fin false 0 0, false)
      | v :: r => r.foldl (fun acc x => let y := FVal.add m acc.1 x; (y.1, acc.2 || y.2)) (v, v.isSig)
    let r := f.divide m (FVal.mul sum.1 (.fin false n 0)).1 (.fin false k 0)
    (r.1, r.2 ||| nvIf sum.2)

/-- The addresses of lane i's 4 bytes: in the contributions that count, or in the accumulated sums, which are read whether or not any
does. -/
def vrdcmDataAddrs (acc : Bool) (d : RedDesc) (x : Nat) (valid : List Nat) : List Nat :=
  if acc then span (d.base.toNat + x) 4
  else valid.flatMap (fun c => span (rowAt d.base d.stride c x) 4)

/-- One lane's results: its elements from the bytes loaded. -/
def vrdcmLane (acc : Bool) (f : Fmt) (w m n k : Nat) (b : List Byte) : List (Nat × Flags) :=
  (List.range (4 / w)).map (fun j =>
    vrdcmElem f m n k ((List.range (if acc then 1 else k)).map (fun c => ofBytes ((b.drop (4 * c + w * j)).take w))))

/-- VRDCM. -/
def execVrdcm (o : FieldsR) (s : State) : Host.Outcome State Fault Refusal :=
  runWord (.vrdcm o) s (fun e =>
    let a := e.v.rs o.sa.toNat
    let off := e.v.rs o.sb.toNat
    let acc : Bool := o.md == 1
    let f := if o.ty = 0 then fp32 else bf16
    let w := if o.ty = 0 then 4 else 2
    let is := maskLanes (activeMask e.v e.p.side.exm o.pred)
    if a.toNat % 32 ≠ 0 then .trap e.s (e.misaligned a)
    else e.access .load false (span a.toNat 32) (fun t dl =>
      match redDesc (t.plainLoad e.c.core dl) with
      | none => .trap e.s e.illegal
      | some d =>
        if off.toNat % 4 ≠ 0 then .trap e.s (e.misaligned off)
        else
          let at_ (i : Nat) : Nat := off.toNat + 4 * i
          match t.locs e.c.core e.c.region .load false (is.flatMap (fun i => vrdcmMaskAddrs acc d (at_ i))) with
          | .error x => .mem e.s x
          | .ok ml =>
            let per := if acc then 8 else d.n
            let masks := is.zip (pieces per is.length (t.plainLoad e.c.core ml))
            let valid := masks.map (fun q =>
              (q.1, (List.range d.n).filter (fun c => vrdcmValid acc (at_ q.1) c q.2)))
            let dvas := valid.flatMap (fun q => vrdcmDataAddrs acc d (at_ q.1) q.2)
            match t.locs e.c.core e.c.region .load false dvas with
            | .error x => .mem e.s x
            | .ok ls =>
              let look1 (vas : List Nat) : List Byte :=
                vas.map (fun v => ((dvas.zip ls).find? (fun q => q.1 == v)).elim 0 (fun q => t.readLoc e.c.core false q.2))
              let vs := valid.flatMap (fun q =>
                (vrdcmLane acc f w o.rm.toNat d.n q.2.length (look1 (vrdcmDataAddrs acc d (at_ q.1) q.2))).zipIdx.map
                  (fun r => (q.1, r.2, r.1)))
              let act := activeMask e.v e.p.side.exm o.pred
              let u := (t.tlbFill e.c.core (is.flatMap (fun i => vrdcmMaskAddrs acc d (at_ i)) ++ dvas)).wakeErrors
                (dl ++ ml ++ ls)
              .ok (u.updCrew e.r.crew (fun c =>
                (c.putVals { kind := .vec, bytes := w, count := 4 / w } o.dst.toNat vs).wkOn o.sc.toNat act
                  (maskOf (fun i => valid.any (fun q => q.1 == i && !q.2.isEmpty)))))))

/-! ### The engine at work (R309 to R312, R328) -/

/-- Price of a flit (R328). -/
def flitPrice : Nat := 96

/-- The next bytes of a put or a reduction, read from this package's G (R308); a put of this package to itself reads its source
as it was (R216, R322). A flit whose source cannot be read yet has drawn its price and draws it again. DESIGN CHOICE (log 122). SRC is
an address of the crew's core and region. DESIGN CHOICE (log 145). -/
def State.sendPiece (s : State) (c : Copy) (d : FabDesc) (h : XferHdr) : State :=
  let n := min 64 (d.len - c.pos)
  match s.locs c.core c.region .load false (span ((d.src.toNat + c.pos) % 2 ^ 64) n) with
  | .error f => s.copyMem c.id f
  | .ok ls =>
    let b := ls.map (s.copySees c)
    let m := if h.cls = .lossy then Msg.lossyFlit h (c.pos / 256) (c.pos % 256 / 64) b else Msg.putData h c.pos b
    let t := (s.agentTouch ls).send d.pkg false (h.cls == .lossy) m
    let sent : Bool := decide (d.len ≤ c.pos + n)
    let u := t.updCopy c.id (fun x => { x with pos := x.pos + n, state := if sent then .sent else .active })
    if sent ∧ h.cls = .lossy then u.post (.transferComplete false c.id) else u

/-- Is an earlier ordered transfer between the same packages still under way (R310)? -/
def State.earlierOrdered (s : State) (c : Copy) (d : FabDesc) : Bool :=
  s.copies.any (fun x => decide (x.id < c.id) && x.running &&
    (match x.kind with
     | .get true y => y.pkg == d.pkg
     | .put .ord y => y.pkg == d.pkg && d.pkg == s.pkgId
     | .red .ord _ y => y.pkg == d.pkg && d.pkg == s.pkgId
     | _ => false))

/-- The next flit of a transfer. -/
def State.transferFlit (s : State) (c : Copy) : State :=
  match c.kind.xfer with
  | none => s
  | some (d, cls, red) =>
    let h := s.headerOf c d cls red
    let key := (xferKey h)
    if !s.reachable d.pkg then s
    else if cls = .ord ∧ (c.kind matches .get _ _ ∨ d.pkg = s.pkgId) ∧ s.earlierOrdered c d then s
    else if c.kind matches .get _ _ then
      let t := if (s.incoming? key).isSome then s else s.addIncoming (newIncoming h)
      let n := min 64 (d.len - c.pos)
      let u := if n = 0 then t else t.send d.pkg false false (.getRequest c.id s.pkgId (d.src + BitVec.ofNat 64 c.pos) n)
      u.updCopy c.id (fun x =>
        { x with pos := x.pos + n, entry := 1, state := if d.len ≤ c.pos + n then .sent else .active })
    else if cls = .lossy then
      if c.entry = 0 then
        (s.send d.pkg true false (.lossyHeader h)).updCopy c.id (fun x => { x with entry := 1 })
      else if c.entry = 2 ∧ c.pos < d.len then s.sendPiece c d h
      else s
    else if d.len = 0 then
      (s.send d.pkg false false (.putData h 0 [])).updCopy c.id (fun x => { x with entry := 1, state := .sent })
    else s.sendPiece c d h

/-- What the next step of a transfer costs the engine (R328): the price of the flit that it sends, or takes in where it asks for
bytes; an RGET of no bytes has no flit. -/
def Copy.flitCost (c : Copy) : Nat :=
  match c.kind with
  | .get _ d => if d.len = 0 then 0 else flitPrice
  | _ => flitPrice

/-- May the engine take a transfer's next step now? -/
def State.mayFlit (s : State) (c : Copy) : Bool :=
  match c.kind.xfer with
  | none => false
  | some (d, cls, _) =>
    c.state == .active && s.reachable d.pkg && !(cls == .lossy && c.entry == 1) &&
    !(cls == .ord && ((c.kind matches .get _ _) || d.pkg == s.pkgId) && s.earlierOrdered c d) &&
    decide (c.flitCost ≤ (s.die (dieOf c.core)).bal)

/-- The bytes of a slice of a tile in this package's G (R262). -/
def sliceAddrs (addr : Word) (row q : Nat) : List Nat := (slicePlaces row q).map (fun k => (addr.toNat + k) % 2 ^ 64)

/-- The destination of a failed transfer has answered (R311). -/
def State.answered (s : State) (id : Nat) : State :=
  { s with fab := { s.fab with cancels := s.fab.cancels.filter (fun q => q.2.id != id) } }

/-- A message that the engine has taken in and paid for acts; the second part says that it must be tried again, as a read of
a slice is that meets a replayable fault here. DESIGN CHOICE (log 110). -/
def State.absorb (s : State) (m : Msg) : State × Bool :=
  match m with
  | .putData h off data => s.landPiece h off data
  | .lossyHeader h => (s.post (.lossyHeader h), false)
  | .lossyFlit h b k data =>
    match s.incoming? (xferKey h) with
    | none => (s, false)
    | some x =>
      if x.finished ∨ !x.accepted ∨ x.got.contains b ∨ h.deadline.toNat ≤ s.now then (s, false)
      else
        let fl := if x.flits.any (fun q => q.1 == b && q.2.1 == k) then x.flits else x.flits ++ [(b, k, data)]
        let t := s.updIncoming (xferKey h) (fun y => { y with flits := fl })
        (match ({ x with flits := fl } : Incoming).intact b with
         | some whole => t.post (.lossyBlock (xferKey h) b whole)
         | none => t, false)
  | .getRequest id src a n => (s.post (.remoteReadRequest id src a n), false)
  | .getData id va data =>
    match (s.copy? id).bind (fun c => c.kind.xfer.map (fun q => (c, q))) with
    | some (c, (d, cls, _)) => s.landPiece (s.headerOf c d cls none) ((va + 2 ^ 64 - d.src.toNat) % 2 ^ 64) data
    | none => (s, false)
  | .sliceRequest r run src opB q addr row =>
    match s.locs noCore 0 .load false (sliceAddrs addr row q) with
    | .error f => if f.replayable then (s, true) else (s.addJob 0 (some src) 1 (.sliceFailed r run opB q 1), false)
    | .ok ls => ((s.agentTouch ls).addJob 0 (some src) 8 (.sliceData r run opB q (ls.map (s.readLoc noCore true))), false)
  | .sliceData r run opB q data => (s.post (.sliceArrival r run opB q data none), false)
  | .sliceFailed r run opB q cause => (s.post (.sliceArrival r run opB q [] (some cause)), false)
  | .ack id =>
    let s := s.answered id
    match s.copy? id with
    | none => (s, false)
    | some c =>
      match c.kind.xfer with
      | some (d, .lossy, _) => (if d.len = 0 then s.acked id else s.updCopy id (fun x => { x with entry := 2 }), false)
      | _ => (s.acked id, false)
  | .failed id cause addr =>
    match s.copy? id with
    | some c =>
      let f : MemFault := { cls := 12, cause := cause.toNat, va := addr, replayable := false }
      (if !c.running then s else if c.kind matches .get _ _ then s.copyFail c f else s.copyFault c f, false)
    | none => (s, false)
  | .cancel h => ((s.cancelled h).addJob 0 (some h.src) 1 (.ack h.id), false)
  | .atomRequest a => (s.post (.remoteAtomic a), false)
  | .atomReply id old cause => (s.ratomEnd id old cause.toNat, false)
  | .flag core region va => s.flagAt core region va
  | .launchUnits us => s.bridgePacket us
  | _ => (s, false)

/-- Take a job off the list, or set how many flits it still owes. -/
def State.dropJob (s : State) (id : Nat) : State := { s with fab := { s.fab with jobs := s.fab.jobs.filter (fun j => j.id != id) } }
def State.payJob (s : State) (id : Nat) : State :=
  { s with fab := { s.fab with jobs := s.fab.jobs.map (fun j => if j.id = id then { j with left := j.left - 1 } else j) } }

/-- A job that is paid for: its message is sent, or acts. DESIGN CHOICE (log 117): an acknowledgement, a notice of failure and a
cancellation travel in the control class, which R304 does not say. -/
def State.runJob (s : State) (j : FabJob) : State :=
  match j.out with
  | some k =>
    let control := match j.msg with | .ack _ | .failed _ _ _ | .cancel _ | .wake _ _ => true | _ => false
    (s.dropJob j.id).send k control false j.msg
  | none =>
    let q := (s.dropJob j.id).absorb j.msg
    if q.2 then { q.1 with fab := { q.1.fab with jobs := q.1.fab.jobs ++ [{ j with left := 0 }] } } else q.1

/-- FABRIC_ENGINE_FLIT (R308, R328): once its die bucket holds a flit's price the engine takes one flit's step of a transfer or of
a job; a job whose flits are paid for, or a transfer without a flit, acts at no price. -/
def execFabricEngineFlit (id : Nat) (s : State) : Host.Outcome State Fault Refusal :=
  .next (match s.copy? id with
    | some c => if s.mayFlit c then (s.drawDie (dieOf c.core) c.flitCost).transferFlit c else s
    | none =>
      match s.fab.jobs.find? (fun j => j.id == id) with
      | none => s
      | some j =>
        if j.left = 0 then s.runJob j
        else if (s.die j.die).bal < flitPrice then s
        else
          let t := (s.drawDie j.die flitPrice).payJob id
          if j.left = 1 then t.runJob { j with left := 0 } else t)

/-! ### Events of transfers (R309 to R313) -/

/-- The first addresses of an area in each of its pages. -/
def pagesOf (a n : Nat) : List Nat :=
  if n = 0 then [] else (List.range ((a % 4096 + n + 4095) / 4096)).map (fun i => if i = 0 then a else (a / 4096 + i) * 4096)

/-- Pages by number with their physical addresses. -/
def pagePlaces (vas : List Nat) (ls : List Loc) : List (Nat × Nat) :=
  (vas.zip ls).filterMap (fun q => match q.2 with | .mem pa => some (q.1 / 4096, pa - q.1 % 4096) | _ => none)

/-- The addresses of DST and MASKA of a lossy transfer, and that of CNTA. -/
def lossyAddrs (h : XferHdr) : List Nat :=
  pagesOf h.dst.toNat h.len ++
  pagesOf h.maska.toNat (if h.red.isSome then 8 * blockCount h.len else (blockCount h.len + 7) / 8)
def lossyCounter (h : XferHdr) : List Nat := if h.cnta = 0 then [] else [h.cnta.toNat]

/-- The pages of a lossy transfer translated (R312): the counter is accessed by an atomic (R362). -/
def State.lossyPages (s : State) (h : XferHdr) : Except MemFault (List (Nat × Nat)) :=
  match s.locs noCore 0 (landKind h) false (lossyAddrs h) with
  | .error f => .error f
  | .ok ls =>
    match s.locs noCore 0 .atomic false (lossyCounter h) with
    | .error f => .error f
    | .ok ms => .ok (pagePlaces (lossyAddrs h) ls ++ pagePlaces (lossyCounter h) ms)

/-- LOSSY_HEADER (R312): every page is translated; a fatal fault or a host-owned page refuses the header. -/
def execLossyHeader (h : XferHdr) (s0 : State) : Host.Outcome State Fault Refusal :=
  .next (
    let s := if (s0.incoming? (xferKey h)).isSome then s0 else s0.addIncoming (newIncoming h)
    match s.incoming? (xferKey h) with
    | none => s
    | some x =>
      if x.accepted ∨ x.finished then s
      else
        match s.lossyPages h with
        | .error f =>
          if f.replayable ∧ f.cls ≠ 9 then s.updIncoming (xferKey h) (fun y => { y with hold := some (f, s.now) })
          else s.incomingFail h 1 f.va
        | .ok pg =>
          let t := (s.updIncoming (xferKey h) (fun y => { y with accepted := true, hold := none, pages := pg })).addJob 0
            (some h.src) 1 (.ack h.id)
          if h.len = 0 ∨ h.deadline.toNat ≤ t.now then t.post (.lossyDeadline (xferKey h)) else t)

/-- LOSSY_BLOCK (R312, R314): an intact block before the deadline is written, or its elements added, and its bit set. One that
meets a replayable fault is held with its flits, and comes again when the fault is resolved (R217). -/
def execLossyBlock (id block : Nat) (data : List Byte) (s : State) : Host.Outcome State Fault Refusal :=
  .next (match s.incoming? id with
    | none => s
    | some x =>
      let h := x.hdr
      if x.finished ∨ !x.accepted ∨ x.got.contains block ∨ h.deadline.toNat ≤ s.now then s
      else
        match s.landLocs x (span (h.dst.toNat + 256 * block) data.length ++ blockMarkAddrs h block) with
        | .error f => s.incomingFault h f
        | .ok ls =>
          let t := ((s.land h (ls.take data.length) data).blockMark h block (ls.drop data.length)).updIncoming id (fun y =>
            { y with got := insertNat block y.got, flits := y.flits.filter (fun q => q.1 != block) })
          if (t.incoming? id).elim false (fun y => y.whole) then t.post (.transferComplete true id) else t)

/-- The end of a block that is not written at the deadline: it becomes zero and its bit is cleared; a reduction adds nothing
(R312, R314). -/
def State.fillBlock (s : State) (x : Incoming) (b : Nat) : Except MemFault State :=
  if x.hdr.red.isSome then .ok s
  else
    match s.landLocs x (span (x.hdr.dst.toNat + 256 * b) 256 ++ [maskByteAddr x.hdr b]) with
    | .error f => .error f
    | .ok ls => .ok ((s.land x.hdr (ls.take 256) (List.replicate 256 0)).maskBit x.hdr (ls.drop 256) b false)

/-- The blocks of a lossy transfer that are not written. -/
def Incoming.missing (x : Incoming) : List Nat := (List.range (blockCount x.hdr.len)).filter (fun b => !x.got.contains b)

/-- The zero fill of a lossy transfer (R312): the state, and the first fault that a block met. Blocks filled count as done. -/
def State.zeroFill (s : State) (x : Incoming) : State × Option MemFault :=
  x.missing.foldl (fun q b =>
    match q.1.fillBlock x b with
    | .ok t => (t.updIncoming (xferKey x.hdr) (fun y => { y with got := insertNat b y.got }), q.2)
    | .error f => (q.1, q.2 <|> some f)) (s, none)

/-- LOSSY_DEADLINE (R312): at the deadline, or with no block left, the transfer completes. A block of the zero fill that meets a
replayable fault, the migration fault among them, holds the transfer until that is resolved (R217, R218). -/
def execLossyDeadline (id : Nat) (s : State) : Host.Outcome State Fault Refusal :=
  .next (match s.incoming? id with
    | none => s
    | some x =>
      if x.finished ∨ !x.accepted ∨ x.hdr.cls ≠ .lossy ∨ (s.now < x.hdr.deadline.toNat ∧ x.whole = false) then s
      else
        let q := s.zeroFill x
        let t := q.1.updIncoming id (fun y => { y with flits := [], hold := none })
        match q.2 with
        | some f => t.incomingFault x.hdr f
        | none => t.post (.transferComplete true id))

/-- The arrival counter of a transfer counts one (R309 step 3): bits [62:0] rise by 1, bit 63 is kept. -/
def State.countArrived (s : State) (x : Incoming) : Except MemFault State :=
  if x.hdr.cnta = 0 then .ok s
  else
    match s.locsWith noCore 0 .atomic false (span x.hdr.cnta.toNat 8) x.pages with
    | .error f => .error f
    | .ok ls =>
      let w := ofBytes (ls.map (s.readLoc noCore true))
      .ok (s.xferStore x.hdr (ls.zip (toBytes 8 ((w / 2 ^ 63) * 2 ^ 63 + (w % 2 ^ 63 + 1) % 2 ^ 63))))

/-- May the last steps of a transfer into this package be taken? An ordered one waits for the earlier ones (R310). -/
def State.mayFinish (s : State) (x : Incoming) : Bool :=
  !x.finished && x.accepted && x.whole && !x.late s.now &&
  !(x.hdr.cls == .ord && x.hdr.src != s.pkgId && x.hdr.seq != seqOf x.hdr.src s.fab.seqIn)

/-- TRANSFER_COMPLETE: at the destination the counter counts and the source is acknowledged (R309, R312); at the source the
transfer completes for its batch. -/
def execTransferComplete (incoming : Bool) (id : Nat) (s : State) : Host.Outcome State Fault Refusal :=
  .next (if incoming then
      match s.incoming? id with
      | none => s
      | some x =>
        if !s.mayFinish x then s
        else
          match s.countArrived x with
          | .error f => s.incomingFault x.hdr f
          | .ok t =>
            let u := ((t.updIncoming id (fun y => { y with finished := true, hold := none, pages := [] })).seqDone x.hdr)
            if x.hdr.cls = .lossy then u else u.addJob 0 (some x.hdr.src) 1 (.ack x.hdr.id)
    else
      match s.copy? id with
      | none => s
      | some c =>
        let lossy : Bool := match c.kind.xfer with | some (_, .lossy, _) => true | _ => false
        if (c.state = .sent ∨ c.state = .active) ∧ c.kind.isDolly = false ∧ (c.entry = 2 ∧ (!lossy ∨ c.state = .sent)) then
          (s.updCopy id (fun x => { x with state := .done })).waitbAll c.crew
        else s)

/-- RELIABLE_RESEND (R311): the packets of an unacknowledged transfer, atomic or slice fetch are sent again while a route
exists; what has been performed is not performed again. An atomic's request goes again as it was issued, with the tick of its issue
(R315); word of a failed transfer until its destination has answered. -/
def execReliableResend (id : Nat) (s : State) : Host.Outcome State Fault Refusal :=
  .next (match s.fab.cancels.find? (fun q => q.2.id == id), s.copy? id with
    | some q, _ => if s.reachable q.1 then s.addJob 0 (some q.1) 1 (.cancel q.2) else s
    | none, some c =>
      match c.kind.xfer with
      | some (d, cls, _) =>
        if cls ≠ .lossy ∧ c.state = .sent ∧ c.entry ≠ 2 ∧ s.reachable d.pkg then
          s.updCopy id (fun x => { x with pos := 0, state := .active }) else s
      | none => s
    | none, none =>
      s.allPaths.foldl (fun u q =>
        match q.2.wait, q.2.here, u.crew? q.1.crew with
        | .ratom a _ _ pkg, _, some c =>
          if a.id = id ∧ u.reachable pkg then u.addJob (dieOf c.core) (some pkg) 1 (.atomRequest a) else u
        | .slices run, some i, some c =>
          match productOf i with
          | some (o, _) => if run.id = id then u.askSlices q.1 c o run else u
          | none => u
        | _, _, _ => u) s)

/-- The cause with which something that a package owes fails now: timeout, or no route (R311, R315, R263). -/
def State.lateCause (s : State) (pkg : BitVec 10) (since : Nat) : Option Nat :=
  if !s.reachable pkg then some 3 else if since + Config.replayBound < s.now then some 4 else none

/-- Has an atomic of this package on itself been performed, so that its reply is on its way (R315)? -/
def State.atomPerformed (s : State) (id : Nat) : Bool := (s.incoming? (inKey s.pkgId id)).isSome

/-- TRANSFER_TIMEOUT (R311): a transfer, atomic or slice fetch that is late or has no route fails; a transfer into this
package that is late flags its counter. The failing address in the record of a transfer that no access has failed is DST, also for
a get. DESIGN CHOICE (log 134). -/
def execTransferTimeout (id : Nat) (s : State) : Host.Outcome State Fault Refusal :=
  .next (match s.copy? id with
    | some c =>
      match c.kind.xfer with
      | some (d, _, _) =>
        if c.running then
          match s.lateCause d.pkg c.since with
          | some k => s.transferFail c k d.dst
          | none => s
        else s
      | none => s
    | none =>
      match s.incoming? id with
      | some x =>
        if !x.finished ∧ (x.hdr.cls ≠ .lossy ∨ !x.accepted) ∧ x.since + Config.replayBound < s.now then
          s.incomingFail x.hdr 4 x.hdr.dst else s
      | none =>
        s.allPaths.foldl (fun u q =>
          match q.2.wait, q.2.here, u.crew? q.1.crew with
          | .ratom a _ _ pkg, _, _ =>
            if a.id ≠ id ∨ u.atomPerformed a.id then u
            else match u.lateCause pkg a.since with
              | some cause => u.ratomEnd a.id none cause
              | none => u
          | .slices run, some i, some c =>
            match productOf i with
            | some (o, _) =>
              if run.id ≠ id then u
              else match ((c.awaited o run).filterMap (fun k => u.lateCause k run.since)).head? with
                | some cause => u.sliceFail q.1 run cause
                | none => u
            | none => u
          | _, _, _ => u) s)

/-- Fail what this package's transfers, atomics and slices owe to a package that is lost (R311, R317). -/
def State.failTo (s : State) (pkg : BitVec 10) : State :=
  let t := s.copies.foldl (fun u c =>
    match c.kind.xfer with
    | some (d, _, _) => if d.pkg = pkg ∧ c.running then u.transferFail c 3 d.dst else u
    | none => u) s
  t.allPaths.foldl (fun u q =>
    match q.2.wait, q.2.here, u.crew? q.1.crew with
    | .ratom a _ _ k, _, _ => if k = pkg then u.ratomEnd a.id none 3 else u
    | .slices run, some i, some c =>
      match productOf i with
      | some (o, _) => if (c.awaited o run).contains pkg then u.sliceFail q.1 run 3 else u
      | none => u
    | _, _, _ => u) t

/-- Is package q in a group: bit q of its 128 bytes (R316)? -/
def inGroup (g : List Byte) (q : Nat) : Bool := (g.getD (q / 8) 0).toNat.testBit (q % 8)

/-- PEER_LOST_NOTICE (R302, R316, R317, R369): acted on once. Atomics of the lost package that still wait here are performed no more
(R315). Sequence numbers with it go on, so that ordered transfers keep their order when a route exists again (R310). DEDUCED
(log 70). -/
def execPeerLostNotice (pkg : BitVec 10) (s : State) : Host.Outcome State Fault Refusal :=
  .next (if s.fab.lost.contains pkg ∨ pkg = s.pkgId then s
    else
      let s1 : State := { s with fab := { s.fab with
        lost := s.fab.lost ++ [pkg]
        jobs := s.fab.jobs.filter (fun j => match j.msg with | .atomRequest a => j.out.isSome || a.src != pkg | _ => true) } }
      let s2 := (s1.fab.armed.filter (fun a => inGroup a.group pkg.toNat)).foldl (fun t a =>
        t.flagOr a.core a.region a.addr) s1
      (s2.failTo pkg).postWords [s2.slate.toNat, pkg.toNat] 7)

end Sys2Proof.Machine
end

