-- ==== Sys2Proof/Machine/Links.lean ====
section
/-! DEFINITION. Links and routers (R295 to R304, R320): flits received, forwarding, link loss and bring-up, routing banks;
and what arrives on the bridge ports (R375). -/

namespace Sys2Proof.Machine

/-! ### Routers (R295, R296, R297) -/

/-- The package that a packet is heading for: its VIA until that is reached. -/
def headingOf (p : Packet) : BitVec 10 := p.via.getD p.dest

/-- A packet at this package's router: at its VIA the stamp is cleared (R296). -/
def State.unstamp (s : State) (p : Packet) : Packet :=
  if p.via = some s.pkgId then { p with via := none, passed := true, vcSet := 1 } else p

/-- Forward a packet: a router without a table in the packet's bank discards it (R297); one that carries no stamp and has
passed no VIA is looked up in its own bank (R296). DEDUCED (log 99). -/
def State.forward (s : State) (p : Packet) : State :=
  if !s.bankValid p.bank then s
  else
    match (if p.via.isSome || p.passed then some p else s.lookUp p) with
    | none => s
    | some q => { s with fab := { s.fab with held := s.fab.held ++ [q] } }

/-- Flits of 64 bytes of a message (R294). -/
def flitsOf : Msg → Nat
  | .sliceData _ _ _ _ _ => 8
  | .launchUnits us => max 1 us.length
  | _ => 1

/-- May a port send n more flits under its keys: before its counter would reach 2^62 it runs a fresh exchange (R300)? -/
def Port.room (q : Port) (n : Nat) : Bool := decide (q.ctr + n < 2 ^ 62)

/-- Give one flit of a packet to a link, under the link's next count (R300). -/
def State.giveFlit (s : State) (k : Nat) (p : Packet) (part : Nat) : State :=
  let f : SentFlit := { port := k, linkId := BitVec.ofNat 32 ((s.port k).epoch * 65536 + s.pkgId.toNat * 64 + k),
                        ctr := (s.port k).ctr, p := p, part := part, state := .flying }
  ({ s with fab := { s.fab with sent := s.fab.sent ++ [f] } }).updPort k (fun q =>
    { q with ctr := q.ctr + 1, lastOut := s.now })

/-- Give a packet to a link, flit by flit. -/
def State.givePacket (s : State) (k : Nat) (p : Packet) : State :=
  (List.range (flitsOf p.msg)).foldl (fun t i => t.giveFlit k p i) s

/-- The link on which a packet leaves (R295). -/
def State.linkOf (s : State) (p : Packet) : Option Nat := s.hopPort (headingOf p)

/-- A packet held in the routers goes to its link: a link that is down loses it; one whose counter has no room keeps it waiting
for a fresh exchange. -/
def State.launchPacket (s : State) (p : Packet) : State :=
  match s.linkOf p with
  | none => s
  | some k =>
    if !(s.port k).up then s
    else if (s.port k).room (flitsOf p.msg) then s.givePacket k p
    else { s with fab := { s.fab with held := s.fab.held ++ [p] } }

/-- A message for a bridge port goes to its link in the same way (R320). -/
def State.launchBridge (s : State) (x : Nat × Msg) : State :=
  if !(s.port x.1).up then s
  else if (s.port x.1).room (flitsOf x.2) then
    s.givePacket x.1 { dest := s.pkgId, bank := s.fab.inj, via := none, passed := false, vcSet := 1, control := true,
                       lossy := false, msg := x.2 }
  else { s with fab := { s.fab with bridge := s.fab.bridge ++ [x] } }

/-- Weighted round robin of two classes (R304): turns of at most a of one and b of the other. -/
def roundRobin (a b : Nat) : Nat → List Packet → List Packet → List Packet
  | 0, l, m => l ++ m
  | n + 1, l, m => l.take (max 1 a) ++ m.take (max 1 b) ++ roundRobin a b n (l.drop (max 1 a)) (m.drop (max 1 b))

/-- The order in which packets leave on one link (R304): the control class first, then the reliable and lossy classes by their
weights. -/
def classOrder (weights : Nat × Nat) (l : List Packet) : List Packet :=
  let rest := l.filter (fun p => !p.control)
  l.filter (fun p => p.control) ++
    roundRobin weights.1 weights.2 rest.length (rest.filter (fun p => !p.lossy)) (rest.filter (fun p => p.lossy))

/-- The order in which held packets leave (R304): the classes share each link by themselves. -/
def State.order (s : State) : List Packet :=
  ((s.fab.held.map s.linkOf).dedup).flatMap (fun k => classOrder s.fab.weights (s.fab.held.filter (fun p => s.linkOf p == k)))

/-- What has become of a flit (R301): one that the other end has discarded is sent again under a new count, but for the lossy
class. -/
def State.settleFlit (s : State) (i : Nat) (f : SentFlit) (fate : Nat) : State :=
  let mark (u : State) (e : FlitEnd) : State :=
    { u with fab := { u.fab with sent := setAt u.fab.sent i { f with state := e } } }
  if f.state ≠ .flying then s
  else if fate = 1 then (mark s .delivered).updPort f.port (fun q => { q with lastAck := s.now })
  else if fate ≠ 2 then s
  else if f.p.lossy then mark s .discarded
  else if (s.port f.port).up && (s.port f.port).room 1 then (mark s .discarded).giveFlit f.port f.p f.part
  else s

/-- The links tell what has become of their flits, by a free choice. -/
def State.settleFlits (s : State) : State :=
  s.fab.sent.zipIdx.foldl (fun t q => t.settleFlit q.2 q.1 (Config.flitFate s.free q.2)) s

/-- All packets held leave that can (log 29). -/
def State.drainRouters (s : State) : State :=
  let t := s.settleFlits
  t.fab.bridge.foldl (fun u x => u.launchBridge x)
    (t.order.foldl (fun u p => u.launchPacket p) { t with fab := { t.fab with held := [], bridge := [] } })

/-! ### Flits (R301) -/

/-- The die whose engine or fetcher takes a message in (R328): that of the crew it is for; one for the package comes to die 0.
DESIGN CHOICE (log 69). -/
def State.msgDie (s : State) (m : Msg) : Nat :=
  let ofCrew (c : Option Crew) : Nat := (c.map (fun c => dieOf c.core)).getD 0
  let ofCopy (id : Nat) : Nat := ((s.copy? id).map (fun c => dieOf c.core)).getD 0
  match m with
  | .sliceData r _ _ _ _ | .sliceFailed r _ _ _ _ => ofCrew (s.crew? r.crew)
  | .ack id | .failed id _ _ | .getData id _ _ => ofCopy id
  | .atomReply id _ _ =>
    ofCrew (s.crews.find? (fun c => c.allPaths.any (fun q => match q.2.wait with | .ratom a _ _ _ => a.id == id | _ => false)))
  | _ => 0

/-- A message that has reached its package: control messages act at once, the engine's wait for tokens (R328). DESIGN CHOICE (log
123): the flits of slices that a re-issued product still fetches are paid for too. -/
def State.takeMsg (s : State) (bridge : Bool) (m : Msg) : State :=
  match m with
  | .wake q v => s.post (.wakeStore q 8 true v)
  | .cue c => if bridge && !s.power.ggrp.bridge then s else s.post (.cueMessage c)
  | .peerLost k => s.post (.peerLostNotice k)
  | .launchUnits us =>
    if !bridge then s
    else let q := s.bridgePacket us; if q.2 then q.1.addJob 0 none 0 (.launchUnits us) else q.1
  | .report _ | .idle => s
  | m => s.addJob (s.msgDie m) none (flitsOf m) m

/-- FLIT_RECEIVE (R301, R304, R320): a flit whose tag fails is discarded, and the sender's link resends it but for the lossy
class. Port 64 stands for this package's own engine. A bridge port takes the control class only, and no packet that comes in or goes
out there is asked for the VALID bit of its bank. DESIGN CHOICE (log 135). -/
def execFlitReceive (port : Nat) (tagOk : Bool) (p : Packet) (s : State) : Host.Outcome State Fault Refusal :=
  .next (
    if port = 64 then s.takeMsg false p.msg
    else if s.mode != .full || !(s.port port).up || (s.port port).keys.isNone || !tagOk then s
    else
      let t := s.updPort port (fun q => { q with lastIn := s.now })
      let bridge : Bool := decide (62 ≤ port)
      if bridge then (if p.control then t.takeMsg true p.msg else t)
      else if p.msg = .idle then t
      else
        let u := t.unstamp p
        if u.via.isNone ∧ u.dest = s.pkgId then
          (if t.bankValid u.bank then t.takeMsg false u.msg else t)
        else t.forward u)

/-! ### Links (R299 to R303) -/

/-- What a link that goes down takes with it: its keys, and flits given to it and not delivered (R299, R303). DESIGN CHOICE (log
118): packets of the control class are lost with it, as lossy ones are. -/
def State.dropLink (s : State) (port : Nat) : State :=
  let t := { s with fab := { s.fab with sent := s.fab.sent.filter (fun f => f.port != port) } }
  t.updPort port (fun q =>
    { q with up := false, down := true, keys := none, offer := none, bringing := false, retryAt := s.now + 1000000 })

/-- Matrix words that still wait for a slice stop when the link to its package is lost (R263): the one on which their requests
leave. DEDUCED (log 100). -/
def State.slicesLost (s : State) (port : Nat) : State :=
  s.allPaths.foldl (fun u q =>
    match q.2.wait, q.2.here, u.crew? q.1.crew with
    | .slices run, some i, some c =>
      match productOf i with
      | some (o, _) =>
        if (c.awaited o run).any (fun k => k != u.pkgId && u.portTo k == some port) then u.sliceFail q.1 run 2 else u
      | none => u
    | _, _, _ => u) s

/-- A link is lost. -/
def State.loseLink (s : State) (port : Nat) : State := (s.dropLink port).slicesLost port

/-- Has a port a link: its neighbour is present, and the package runs its fabric (R294, R379)? -/
def State.linked (s : State) (port : Nat) : Bool := decide (port < 64) && s.mode == .full && Config.neighbourPresent port

/-- LINK_TIMEOUT (R302): in one direction nothing has been delivered for longer than LNKTO. -/
def execLinkTimeout (port : Nat) (s : State) : Host.Outcome State Fault Refusal :=
  .next (if port < 64 ∧ (s.port port).up ∧
      ((s.port port).lastIn + s.fab.lnkto < s.now ∨ (s.port port).lastAck + s.fab.lnkto < s.now) then s.loseLink port
    else s)

/-- IDLE_FLIT (R302): an up link that has sent nothing for 1,000 ticks. It is of the control class. DESIGN CHOICE (log 117). -/
def execIdleFlit (port : Nat) (s : State) : Host.Outcome State Fault Refusal :=
  .next (if port < 64 ∧ (s.port port).up ∧ (s.port port).lastOut + 1000 ≤ s.now ∧ (s.port port).room 1 then
      s.giveFlit port { dest := s.pkgId, bank := s.fab.inj, via := none, passed := false, vcSet := 1, control := true,
                        lossy := false, msg := .idle } 0
    else s)

/-- This end's half of the n-th key exchange of a port (R299): a fresh ephemeral public key, its SHA-512 signed under the device
identity key, and the chain that certifies that key. -/
def ownOffer (port n : Nat) : KeyOffer :=
  { key := Config.ownKey port n, sig := Config.identitySign (toBytes 64 (Config.sha512 (Config.ownKey port n)).toNat),
    cert := Config.ownCert }

/-- A bring-up begins (R303): this end sends its half of the exchange (R299). -/
def State.beginBringup (s : State) (port : Nat) : State :=
  s.updPort port (fun q =>
    { q with bringing := true, attempts := q.attempts + 1, retryAt := s.now + 1000000,
             offer := some (ownOffer port (q.attempts + 1)) })

/-- LINK_AUTO_BRINGUP (R303): a down link whose neighbour is present tries again by itself. -/
def execLinkAutoBringup (port : Nat) (s : State) : Host.Outcome State Fault Refusal :=
  .next (let q := s.port port
    if s.linked port ∧ q.auto ∧ q.down ∧ !q.up ∧ !q.bringing ∧ q.retryAt ≤ s.now then s.beginBringup port else s)

/-- LINK_START (R303): writing START starts a bring-up, of an up link too; one under way goes on. DESIGN CHOICE (log 98). -/
def execLinkStart (port : Nat) (s : State) : Host.Outcome State Fault Refusal :=
  .next (if s.linked port ∧ !(s.port port).bringing then s.beginBringup port else s)

/-- The peer's half of the key exchange of R299, the n-th of a port: the certificate chain of the peer must verify, and the
signature over its ephemeral key under the key that it certifies; both ends derive a key for each direction from the secret that
this end's ephemeral key (ownOffer) shares with the peer's. -/
def exchange (port n : Nat) (x : KeyOffer) : Option (BitVec 256 × BitVec 256) :=
  match Config.certifiedKey x.cert with
  | none => none
  | some id =>
    if Config.signatureOk id (Config.sha512 x.key) x.sig then
      let z := Config.sharedSecret port n x.key
      some (Config.hkdf z true, Config.hkdf z false)
    else none

/-- A port under fresh keys: the next epoch, the flit counter at 0 (R300, R303). -/
def Port.rekeyed (q : Port) (k : BitVec 256 × BitVec 256) : Port :=
  { q with keys := some k, epoch := (q.epoch + 1) % 65536, ctr := 0 }

/-- Packages that have a route again may be found lost anew (R303). -/
def State.relist (s : State) : State := { s with fab := { s.fab with lost := s.fab.lost.filter (fun k => !s.reachable k) } }

/-- A bring-up fails (R302, R303): the link is down, and FAILS counts. -/
def State.bringupFails (s : State) (port : Nat) : State :=
  (if (s.port port).up then s.loseLink port else s).updPort port (fun q =>
    { q with down := true, fails := min 255 (q.fails + 1), bringing := false, offer := none })

/-- LINK_BRINGUP_COMPLETE (R299, R303): the lanes have trained and the peer made its offer, or they have not. -/
def execLinkBringupComplete (port : Nat) (offer : Option KeyOffer) (s : State) : Host.Outcome State Fault Refusal :=
  .next (if !(s.port port).bringing then s
    else
      match offer.bind (fun x => if s.linked port then exchange port (s.port port).attempts x else none) with
      | some k =>
        (s.updPort port (fun q =>
          { q.rekeyed k with up := true, down := false, fails := 0, lastIn := s.now, lastAck := s.now, lastOut := s.now,
                             bringing := false })).relist
      | none => s.bringupFails port)

/-- Must a link run a fresh exchange: its counter nears 2^62 (R300)? -/
def Port.rekeyDue (q : Port) : Bool := q.up && decide (2 ^ 62 ≤ q.ctr + 16)

/-- LINK_REKEY (R300, R302): a fresh exchange, in which this end sends its half, gives new keys and the next epoch; one that
fails takes the link down. -/
def execLinkRekey (x : Rekey) (s : State) : Host.Outcome State Fault Refusal :=
  .next (if !(s.port x.port).rekeyDue then s
    else
      match exchange x.port ((s.port x.port).attempts + 1) x.offer with
      | some k => s.updPort x.port (fun q =>
          { q.rekeyed k with attempts := q.attempts + 1, offer := some (ownOffer x.port (q.attempts + 1)) })
      | none => s.loseLink x.port)

/-- LNKTO_WRITE (R302, R367): a value outside its range stores the nearer bound. -/
def execLnktoWrite (value : Word) (s : State) : Host.Outcome State Fault Refusal :=
  .next { s with fab := { s.fab with lnkto := min 10000000 (max 10000 (value.toNat % 2 ^ 24)) } }

/-! ### Routing banks (R296, R297) -/

/-- A refused change sets RERR. -/
def State.routeError (s : State) : State := { s with fab := { s.fab with rerr := true } }

/-- ROUTING_ENTRY_WRITE: refused while the bank is in use; reserved bits are not kept. -/
def execRoutingEntryWrite (bank : BitVec 1) (entry : BitVec 10) (value : BitVec 16) (s : State) :
    Host.Outcome State Fault Refusal :=
  .next (if s.fab.inj = bank ∨ s.heldCount bank ≠ 0 then s.routeError
    else { s with fab := { s.fab with banks := put (bank.toNat * 1024 + entry.toNat) (value &&& 0xC3FF#16) s.fab.banks } })

/-- Firmware that finds packages lost sends a notice of each to every reachable package, and this package acts on it
(R302). DEDUCED (log 41). -/
def State.noticeLost (s : State) (ks : List Nat) : State :=
  ks.foldl (fun t k =>
    let pkg : BitVec 10 := BitVec.ofNat 10 k
    ((List.range 1024).foldl (fun u d =>
      let dest : BitVec 10 := BitVec.ofNat 10 d
      if dest ≠ u.pkgId ∧ u.reachable dest then u.send dest true false (.peerLost pkg) else u) t).post (.peerLostNotice pkg)) s

/-- FRCTL_INJ_WRITE: refused for a bank whose VALID bit is clear. Packages that lose their route are lost. -/
def execFrctlInjWrite (bank : BitVec 1) (s : State) : Host.Outcome State Fault Refusal :=
  .next (if !s.bankValid bank then s.routeError
    else
      let t : State := { s with fab := { s.fab with inj := bank } }
      let gone := (List.range 1024).filter (fun k =>
        s.bankValid s.fab.inj && s.reachable (BitVec.ofNat 10 k) && !t.reachable (BitVec.ofNat 10 k))
      t.relist.noticeLost gone)

/-- FRCTL_VALID_WRITE: clearing is refused for the injection bank. -/
def execFrctlValidWrite (bank : BitVec 1) (value : Bool) (s : State) : Host.Outcome State Fault Refusal :=
  .next (if !value && s.fab.inj == bank then s.routeError
    else if bank = 0 then { s with fab := { s.fab with valid0 := value } }
    else { s with fab := { s.fab with valid1 := value } })

/-- FRCTL_RERR_CLEAR. -/
def execFrctlRerrClear (s : State) : Host.Outcome State Fault Refusal :=
  .next { s with fab := { s.fab with rerr := false } }

end Sys2Proof.Machine
end

