-- ==== Sys2Proof/Machine/Power.lean ====
section
/-! DEFINITION. Energy tokens, the Gaffer and cues (R324 to R348): how tokens pass down, the rate of each interval,
 cues and their admission, the token instructions and the power registers. -/

namespace Sys2Proof.Machine

/-! ### Buckets (R325) -/

def packageCap : Nat := 2 ^ 26
def dieCap : Nat := 2 ^ 24
def coreCap : Nat := 2 ^ 20
/-- Tokens of one watt over an interval (R332). -/
def tokensPerWatt : Nat := 1024000

/-- Is a die in service (R10, R379)? -/
def State.inService (s : State) (d : Nat) : Bool := s.mode == .full || (s.mode == .minimal && d == 0)

/-- The crews that hold a slot of a core. -/
def State.crewsOn (s : State) (core : Nat) : List Crew := s.crews.filter (fun c => c.core == core && c.holdsSlot)

/-- The reserves of all crews of a core (R343). -/
def State.reserves (s : State) (core : Nat) : Nat := ((s.crewsOn core).map (fun c => c.reserve)).sum

/-- What a core's unreserved balance still accepts: it rises toward 2^20 less the reserves (R325, R327). -/
def State.coreNeed (s : State) (core : Nat) : Nat := coreCap - s.reserves core - (s.core core).bal

/-- Weight of a core: 1 plus TOKSH of each region with a crew resident on it (R325). -/
def State.coreWeight (s : State) (core : Nat) : Nat :=
  1 + ((((s.crewsOn core).map (fun c => c.region)).dedup).map (fun g =>
    match s.region? g with | some r => r.rcb.toksh | none => 0)).sum

/-- The cores of a die. -/
def coresOfDie (d : Nat) : List Nat := (List.range 64).map (fun i => d * 64 + i)

/-- Weight of a die (R325). -/
def State.dieWeight (s : State) (d : Nat) : Nat := ((coresOfDie d).map s.coreWeight).sum

/-- What each bucket below receives of what its parent holds (R325): all it needs when that suffices for all, else a
share by weight rounded down, cut to what it needs; the rest stays in the parent for that tick. DESIGN CHOICE (log 136). Entries are
(bucket, need, weight). -/
def shares (avail : Nat) (bs : List (Nat × Nat × Nat)) : List (Nat × Nat) :=
  let low := bs.filter (fun b => b.2.1 != 0)
  if (low.map (fun b => b.2.1)).sum ≤ avail then low.map (fun b => (b.1, b.2.1))
  else
    let w := (low.map (fun b => b.2.2)).sum
    low.map (fun b => (b.1, min b.2.1 (avail * b.2.2 / w)))

/-- Tokens given in all. -/
def given (l : List (Nat × Nat)) : Nat := (l.map (fun x => x.2)).sum

/-- The package bucket passes tokens to the dies. -/
def State.fillDies (s : State) : State :=
  let g := shares s.power.bal (((List.range Config.dies).filter s.inService).map (fun d =>
    (d, dieCap - (s.die d).bal, s.dieWeight d)))
  let t := g.foldl (fun t x => t.updDie x.1 (fun d => { d with bal := d.bal + x.2 })) s
  { t with power := { t.power with bal := t.power.bal - given g } }

/-- A die bucket passes tokens to its cores, but for one whose limiter has tripped (R325, R347). -/
def State.fillCores (s : State) (d : Nat) : State :=
  if (s.die d).limited || !s.inService d then s
  else
    let g := shares (s.die d).bal ((coresOfDie d).map (fun k => (k, s.coreNeed k, s.coreWeight k)))
    let t := g.foldl (fun t x => t.updCore x.1 (fun c => { c with bal := c.bal + x.2 })) s
    t.updDie d (fun x => { x with bal := x.bal - given g })

/-- The tokens of a tick pass down (R325): to the dies, to the cores, and what the package bucket cannot keep to dies that
their cores have left below capacity. -/
def State.passDown (s : State) : State :=
  let t := (List.range Config.dies).foldl (fun u d => u.fillCores d) s.fillDies
  if packageCap < t.power.bal then t.fillDies else t

/-- A die's limiter takes the sample of a tick, in mA (R347, R340). ILIM is in units of 4 A for four dies. -/
def Die.sample (d : Die) (ilim : Nat) (ma : Nat) : Die :=
  let lim := ilim * 1000
  let above := decide (lim < ma)
  { d with limited := if above then true else if 10 * ma < 9 * lim then false else d.limited
           tripNow := d.tripNow || (above && !d.limited)
           hotNow := d.hotNow || decide (9 * lim < 10 * ma) }

/-- Where a list of prefetch ballast stands once its entry at hand has been read (R345): at the next one, or at its end where it
cannot be read; a replayable fault, the migration fault of a page that the host owns among them (R217), leaves it there, and the
entry is read again at a later turn of the list. -/
def State.listNext (s : State) (l : BallastList) : Nat :=
  match s.locs noCore l.region .load false (span (l.base.toNat + 16 * l.cursor) 16) with
  | .ok _ => l.cursor + 1
  | .error f => if f.replayable then l.cursor else l.n

/-- Prefetch ballast serves one list of a die by one entry (R334, R345): the lists take turns. The prefetch itself changes no value
(R335). -/
def State.serveList (s : State) (d : Nat) : State :=
  match (s.die d).blists.find? (fun l => decide (l.cursor < l.n)) with
  | none => s
  | some l =>
    let l2 := { l with cursor := s.listNext l }
    s.updDie d (fun x => { x with blists := x.blists.filter (fun y => y.region != l.region) ++ [l2] })

/-- A unit of ballast takes what it can use of the tokens left, which is open (R334). -/
def State.ballastUnit (s : State) (unit : Nat) (may : Bool) (left : Nat) : State × Nat :=
  let n := if may then min left (Config.ballastUse s.free unit) else 0
  ({ s with power := { s.power with ballast := s.power.ballast + n } }, n)

/-- Prefetch ballast of a die, where a list is registered: it reads an entry for the tokens it takes (R334, R345). -/
def State.prefetchUnit (s : State) (d left : Nat) : State × Nat :=
  let q := s.ballastUnit d ((s.die d).blists.any (fun l => decide (l.cursor < l.n))) left
  (if q.2 = 0 then q.1 else q.1.serveList d, q.2)

/-- Units of ballast take in order from what is left. -/
def ballastRow (f : State → Nat → Nat → State × Nat) (us : List Nat) (q : State × Nat) : State × Nat :=
  us.foldl (fun q u => let x := f q.1 u q.2; (x.1, q.2 - x.2)) q

/-- The tokens that no bucket accepts are offered to ballast in its order (R334): prefetch of registered lists, HBM scrub
and LLC scrub of each die, and the self-test of the arrays of which idle tells that it may run; the rest is discarded. -/
def State.offerBallast (s : State) (idle : Nat → Bool) : State :=
  let extra := s.power.bal - packageCap
  let t : State := { s with power := { s.power with bal := min s.power.bal packageCap } }
  if extra = 0 then t
  else
    let ds := (List.range Config.dies).filter s.inService
    let q := ballastRow (fun u d n => u.prefetchUnit d n) ds (t, extra)
    let q := ballastRow (fun u d n => u.ballastUnit (4 + d) true n) ds q
    let q := ballastRow (fun u d n => u.ballastUnit (8 + d) true n) ds q
    (ballastRow (fun u k n => u.ballastUnit (12 + k) (idle k) n) (List.range Config.cores) q).1

/-! ### Cues (R336 to R338) -/

/-- The cue source id of the package (R336). -/
def State.cueSrc (s : State) : BitVec 32 := s.power.ggrp.fabno ++ s.pkgId

/-- Is the package in a cue group (R337, R379)? -/
def State.inGroup (s : State) : Bool := s.mode == .full && s.power.ggrp.group != 0 && s.power.budgetNow != 0

/-- Does an admitted cue's span hold an interval? -/
def CueEntry.spans (e : CueEntry) (k : Nat) : Bool :=
  match e.at_ with
  | some a => decide (a ≤ k) && decide (k < a + e.msg.dur)
  | none => false

/-- admitted(k) (R337). -/
def admittedAt (l : List CueEntry) (k : Nat) : Nat := ((l.filter (fun e => e.spans k)).map (fun e => e.msg.rise)).sum

/-- The admitted rise of this package for an interval (R337). -/
def State.ownRise (s : State) (k : Nat) : Nat := admittedAt (s.power.cues.filter (fun e => e.msg.src == s.cueSrc)) k

/-- The first interval from j on at which a cue fits within the budget, tried one by one (R337). -/
def fitFrom (l : List CueEntry) (budget : Nat) (m : CueMsg) : Nat → Nat → Nat
  | 0, j => j
  | fuel + 1, j =>
    if (List.range m.dur).any (fun i => decide (budget < admittedAt l (j + i) + m.rise)) then
      fitFrom l budget m fuel (j + 1)
    else j

/-- An interval past every admitted span. -/
def lastEnd (l : List CueEntry) : Nat :=
  l.foldl (fun n e => match e.at_ with | some a => max n (a + e.msg.dur) | none => n) 0

/-- Note the first interval of an admitted cue, in the first of equal entries. -/
def noteAdmitted (e : CueEntry) (a : Nat) : List CueEntry → List CueEntry
  | [] => []
  | x :: r => if x = e then { x with at_ := some a } :: r else x :: noteAdmitted e a r

/-- Admit one pending cue of the table at its requested start (R337); one with RISE above BUDGET is never admitted. -/
def admitOne (budget : Nat) (l : List CueEntry) (e : CueEntry) : List CueEntry :=
  if budget < e.msg.rise then l
  else noteAdmitted e (fitFrom l budget e.msg (lastEnd l - e.msg.start) e.msg.start) l

/-- Insert a cue by its source id. -/
def insertCue (e : CueEntry) : List CueEntry → List CueEntry
  | [] => [e]
  | x :: r => if e.msg.src.toNat < x.msg.src.toNat then e :: x :: r else x :: insertCue e r

/-- The pending cues of an interval in ascending source id (R337). DESIGN CHOICE (log 119): of two with one source id, the one that
entered the table first comes first. -/
def pendingAt (l : List CueEntry) (j : Nat) : List CueEntry :=
  (l.filter (fun e => e.at_.isNone && e.msg.start == j)).foldl (fun a e => insertCue e a) []

/-- The cutoff of interval j (R337). -/
def admitAll (budget : Nat) (l : List CueEntry) (j : Nat) : List CueEntry :=
  (pendingAt l j).foldl (fun a e => admitOne budget a e) l

/-- Has the span of a cue ended by interval n (R336)? -/
def CueEntry.ended (e : CueEntry) (n : Nat) : Bool := decide (e.at_.getD e.msg.start + e.msg.dur ≤ n)

/-- Put a cue into the table. -/
def State.addCue (s : State) (m : CueMsg) : State :=
  { s with power := { s.power with cues := s.power.cues ++ [{ msg := m, at_ := none }] } }

/-- Send a cue of this package (R336): it enters the own table, and a message goes to every package that can be reached,
and to the bridge ports when BRIDGE is 1. -/
def State.sendCue (s : State) (start rise dur : Nat) : State :=
  let m : CueMsg := { group := s.power.ggrp.group, src := s.cueSrc, start := start, rise := rise, dur := dur }
  let t := (List.range 1024).foldl (fun t d =>
    let k : BitVec 10 := BitVec.ofNat 10 d
    if k ≠ t.pkgId ∧ t.reachable k then t.send k true false (.cue m) else t) (s.addCue m)
  if t.power.ggrp.bridge then t.sendBridge (.cue m) else t

/-- CUE_MESSAGE (R336, R337): accepted only in the same group, with room; a late one is admitted at the first interval
whose cutoff has not passed. -/
def execCueMessage (m : CueMsg) (s : State) : Host.Outcome State Fault Refusal :=
  .next (
    let cur := intervalOf s.now
    if s.inGroup ∧ m.group = s.power.ggrp.group ∧ s.power.cues.length < 256 then
      s.addCue (if m.start ≤ cur + 4 then { m with start := cur + 5 } else m)
    else s)

/-! ### The Gaffer (R331, R332, R338, R348) -/

/-- a over b rounded to the nearest whole number, ties to even (R348). -/
def nearestEven (a b : Nat) : Nat :=
  let q := a / b
  let r := a % b
  if 2 * r < b then q else if b < 2 * r then q + 1 else q + q % 2

/-- A new BUDGET comes into effect with an empty cue table (R337). -/
def Power.joinGroup (p : Power) : Power :=
  if p.ggrp.budget = p.budgetNow then p else { p with budgetNow := p.ggrp.budget, cues := [] }

/-- The new rate (R332): target and up in whole watts. -/
def newRate (rate target up slew cap : Nat) : Nat :=
  min cap (if rate < target then min (rate + up) (min target cap) else max (rate - slew) target)

/-- The target of an interval (R332): CAP when some core was held for 64 ticks, else the demand rounded up. -/
def State.gafferTarget (s : State) : Nat :=
  if s.cores.any (fun c => decide (64 ≤ c.heldTicks)) then s.power.gcfg.cap
  else (s.power.drawn + tokensPerWatt - 1) / tokensPerWatt

/-- The automatic cue of R338, judged on the rate just computed: DEDUCED (log 34). A cue whose last interval is n does not
stop it. DESIGN CHOICE (log 121): an own cue whose RISE is above BUDGET awaits admission until the span that it asks for ends. None is sent
while the table holds 256 cues. DESIGN CHOICE (log 146). -/
def State.autoCue (s : State) (n target : Nat) : State :=
  let src := s.cueSrc
  let own := s.power.cues.filter (fun e => e.msg.src == src)
  let rise := min s.power.gcfg.slew s.power.budgetNow
  if s.inGroup && decide (s.power.rate < target) && own.all (fun e => e.at_.isSome && e.ended (n + 1)) &&
      decide (s.power.cues.length < 256) then
    s.sendCue (n + 8) rise (min ((target - s.power.rate + rise - 1) / rise) 64)
  else s

/-- What the interval leaves for the registers (R340, R342, R348), and its counts at zero again. -/
def State.closeInterval (s : State) (uncoreMw : Nat) : State :=
  let spent := uncoreMw * 1024 + s.power.drawn + s.power.ballast
  { s with
    power := { s.power with
      lastShort := nearestEven (s.power.rate * tokensPerWatt - spent) tokensPerWatt
      lastBallast := nearestEven s.power.ballast tokensPerWatt
      uncoreMw := uncoreMw
      uncore := (uncoreMw + 999) / 1000
      drawn := 0
      ballast := 0 }
    dies := s.dies.map (fun d => { d with trip := d.tripNow, hdrm := !d.hotNow, tripNow := false, hotNow := false })
    cores := s.cores.map (fun c => { c with heldTicks := 0 }) }

/-- GAFFER_INTERVAL (R332): once for each interval, at its first tick, the rate, the cutoff and the automatic cue. -/
def execGafferInterval (uncoreMw : Nat) (s : State) : Host.Outcome State Fault Refusal :=
  .next (
    if intervalOf s.now = s.power.interval then s
    else
      let n := intervalOf s.now
      let target := s.gafferTarget
      let s1 : State := { s.closeInterval uncoreMw with power := (s.closeInterval uncoreMw).power.joinGroup }
      let g := s1.power.gcfg
      let up := if s1.inGroup then min g.slew (s1.ownRise n) else g.slew
      let s2 : State := { s1 with power := { s1.power with interval := n, rate := newRate s1.power.rate target up g.slew g.cap } }
      let s3 := s2.autoCue n target
      { s3 with power := { s3.power with
          cues := (admitAll s3.power.budgetNow s3.power.cues (n + 4)).filter (fun e => !e.ended n) } })

/-! ### Registers of the Gaffer (R330, R331) -/

/-- GFUSE, GCFG and GGRP as they are read (R330, R367). -/
def GFuse.word (g : GFuse) : Nat := g.fcap * 2 ^ 41 + g.fslew * 2 ^ 31 + g.filim * 2 ^ 19
def GCfg.word (g : GCfg) : Nat := g.cap * 2 ^ 41 + g.slew * 2 ^ 31 + g.ilim * 2 ^ 19
def GGrp.word (g : GGrp) : Nat :=
  g.group.toNat * 2 ^ 48 + g.budget * 2 ^ 35 + (if g.bridge then 2 ^ 34 else 0) + g.fabno.toNat * 2 ^ 12

/-- GCFG_WRITE (R331): no field above its fused value, SLEW at least 1. -/
def execGcfgWrite (value : Word) (s : State) : Host.Outcome State Fault Refusal :=
  let v := value.toNat
  .next { s with power := { s.power with
    gcfg := { cap := min (bits v 53 41) s.power.fuse.fcap, slew := max 1 (min (bits v 40 31) s.power.fuse.fslew),
              ilim := min (bits v 30 19) s.power.fuse.filim } } }

/-- GGRP_WRITE (R331, R337): another GROUP empties the cue table; BUDGET 0 acts at once. -/
def execGgrpWrite (value : Word) (s : State) : Host.Outcome State Fault Refusal :=
  let v := value.toNat
  let g : GGrp := { group := BitVec.ofNat 16 (bits v 63 48), budget := bits v 47 35, bridge := bit v 34,
                    fabno := BitVec.ofNat 22 (bits v 33 12) }
  .next { s with power := { s.power with
    ggrp := g
    budgetNow := if g.budget = 0 then 0 else s.power.budgetNow
    cues := if g.group = s.power.ggrp.group then s.power.cues else [] } }

/-! ### Holds (R327) -/

/-- The reserve of a crew returns to its core's unreserved balance (R343). -/
def State.returnReserve (s : State) (id : Nat) : State :=
  match s.crew? id with
  | none => s
  | some c =>
    (s.updCore c.core (fun k => { k with bal := k.bal + c.reserve })).updCrew id (fun d => { d with reserve := 0 })

/-- A hold ends with its path's issue; and when the path no longer waits for tokens, its crew being saved, ended or
trapped (log 35). -/
def State.releaseHold (s : State) (core : Nat) (p : PathRef → Bool) : State :=
  s.updCore core (fun k => match k.hold with | some r => if p r then { k with hold := none } else k | none => k)

/-! ### Instructions (R341 to R346) -/

/-- An item of TKRD (R342). -/
def Env.tkItem (e : Env) (n : Nat) : Nat :=
  if n = 0 then e.sysRead 0x100
  else if n = 1 then e.c.reserve
  else if n = 2 then e.sysRead 0x101
  else if n = 3 then e.sysRead 0x102
  else if n = 4 then e.sysRead 0x103
  else if n = 5 then nearestEven e.s.power.uncoreMw 1000
  else if n = 6 then e.s.power.lastShort % 2 ^ 13 * 2 ^ 16 + e.s.power.lastBallast % 2 ^ 13
  else (if e.s.inGroup then e.s.ownRise (intervalOf e.s.now + 1) % 2 ^ 13 else 0) +
    (if (e.s.core e.c.core).hold.isSome then 2 ^ 16 else 0)

/-- TKRD. -/
def execTkrd (o : FieldsS) (s : State) : Host.Outcome State Fault Refusal :=
  runWord (.tkrd o) s (fun e => .ok (e.s.ws e.r.crew o.dst.toNat (BitVec.ofNat 64 (e.tkItem o.imm.toNat))))

/-- Tokens that TKRSV moves into the crew's reserve when it wants more (R343). -/
def Env.reserveGain (e : Env) (want : Nat) : Nat :=
  let k := e.s.core e.c.core
  if (match k.hold with | some r => r.crew != e.c.id | none => false) then 0
  else min want (min k.bal (2 ^ 19 - e.s.reserves e.c.core))

/-- TKRSV (R343). -/
def execTkrsv (o : FieldsS) (s : State) : Host.Outcome State Fault Refusal :=
  runWord (.tkrsv o) s (fun e =>
    let n := min (e.v.rs o.ss.toNat).toNat (2 ^ 18)
    let old := e.c.reserve
    let new := if old ≤ n then old + e.reserveGain (n - old) else n
    let t := e.s.updCore e.c.core (fun k => { k with bal := k.bal + old - new })
    .ok ((t.updCrew e.r.crew (fun c => { c with reserve := new })).ws e.r.crew o.dst.toNat (BitVec.ofNat 64 new)))

/-- CUE (R344). -/
def execCue (o : FieldsS) (s : State) : Host.Outcome State Fault Refusal :=
  runWord (.cue o) s (fun e =>
    let w := (e.v.rs o.ss.toNat).toNat
    let rise := bits w 25 16
    let dur := bits w 15 0
    let out (t : State) (x : Nat) : Res := .ok (t.ws e.r.crew o.dst.toNat (BitVec.ofNat 64 x))
    if bits w 63 48 ≠ 0 ∨ bits w 31 26 ≠ 0 ∨ rise = 0 ∨ dur = 0 then out e.s 3
    else if !e.s.inGroup then out e.s 1
    else if 256 ≤ e.s.power.cues.length then out e.s 2
    else
      let start := intervalOf e.s.now + max (bits w 47 32) 8
      out (e.s.sendCue start rise dur) (start * 2 ^ 32))

/-- BLST (R345). -/
def execBlst (o : FieldsS) (s : State) : Host.Outcome State Fault Refusal :=
  runWord (.blst o) s (fun e =>
    let a := e.v.rs o.ss.toNat
    let d := dieOf e.c.core
    let others := (e.s.die d).blists.filter (fun l => l.region != e.c.region)
    let out (l : List BallastList) (x : Nat) : Res :=
      .ok ((e.s.updDie d (fun k => { k with blists := l })).ws e.r.crew o.dst.toNat (BitVec.ofNat 64 x))
    if a.toNat % 16 ≠ 0 then .trap e.s (e.misaligned a)
    else if o.imm = 0 then out others 0
    else if (e.s.die d).blists.all (fun l => l.region != e.c.region) ∧ 64 ≤ others.length then
      out (e.s.die d).blists 1
    else out (others ++ [{ region := e.c.region, base := a, n := o.imm.toNat, cursor := 0 }]) 0)

end Sys2Proof.Machine
end

