-- ==== Sys2Proof/Machine/Issue.lean ====
section
/-! DEFINITION. The issue of a clause (R44, R45, R98 to R106, R137, R326, R327): its fetch, its entry waits, its static
checks and its draw. -/

namespace Sys2Proof.Machine

/-- How a path stands at a clause boundary (R44): it is no candidate; its fetch faults; a check or an entry wait gives a
trap; it waits at an entry wait, for the scoreboard, for tokens, or while the core is held; or it can issue. -/
inductive Ready where
  | idle
  | fetchFault (f : MemFault)
  | bad (t : Trap)
  | pending (n : Nat) (b : Barrier) (t : Trap)
  | onBarrier (n : Nat) (b : Barrier) (h : Word)
  | onBatch (bs : List Nat) (h : Word)
  | scoreboard
  | tokens
  | coreHeld
  | go (h : Word) (ws : List Word)
  deriving DecidableEq, Repr

/-- The trap of a static check (R106, R349, R355). -/
def StaticFault.trap (f : StaticFault) (slate h : Word) : Trap :=
  clauseTrap slate f.cls f.cause f.val f.index (if f.cls = 1 then f.val else h)

/-- The wait that a header's WBAR imposes (R104, R385): a pending fault is taken whether or not it would wait. -/
def State.entryBarrier (s : State) (c : Crew) (h : Word) : Option Ready :=
  match s.barrier? c.core (hdrWbar h) with
  | none => none
  | some b =>
    if 96 ≤ hdrWbar h ∨ b.region ≠ c.region then none
    else
      match b.pending with
      | some q =>
        some (.pending (hdrWbar h) b
          { clauseTrap q.slate 11 q.cause (BitVec.ofNat 64 (hdrWbar h)) 0 h with bar := some q })
      | none => if look (hdrWbar h) c.arrivals = some b.gen then some (.onBarrier (hdrWbar h) b h) else none

/-- The batches that a header's WBATCH waits for (R104), none when there is nothing to wait for. -/
def Crew.entryBatches (c : Crew) (h : Word) : List Nat := if hdrWbatch h = 127 then [] else c.covers (hdrWbatch h)

/-- Do a crew's reserve and its core's unreserved balance cover a price (R326)? -/
def State.affords (s : State) (c : Crew) (n : Nat) : Bool := decide (n ≤ c.reserve + (s.core c.core).bal)

/-- Is the core of a crew held for another path (R327)? -/
def State.heldAgainst (s : State) (core : Nat) (r : PathRef) : Bool :=
  match (s.core core).hold with
  | some x => x != r
  | none => false

/-- What the checks after the entry waits find: the static checks (R106), the scoreboard for the first word (R99), the
tokens (R326). -/
def State.readyWords (s : State) (r : PathRef) (c : Crew) (p : Path) (h : Word) (ws : List Word) : Ready :=
  match staticFault h ws with
  | some f => .bad (f.trap s.slate h)
  | none =>
    match decodeWord (hdrPair h 0) (ws.headD 0) with
    | none => .idle
    | some i =>
      if p.blocked (c.readUnits (uses i)) (c.writeUnits (uses i)) then .scoreboard
      else if !s.affords c (4 * hdrPrice h) then .tokens
      else if s.heldAgainst c.core r then .coreHeld
      else .go h ws

/-- How a path that stands at a clause boundary finds its clause (R99, R137): fetched whole, header first. -/
def State.readyAt (s : State) (r : PathRef) (c : Crew) (p : Path) : Ready :=
  let fault (f : MemFault) : Ready := if f.replayable then .fetchFault f else .bad (clauseTrap s.slate f.cls f.cause f.va 0 0)
  match s.fetchWord c.core c.region 0 p.side.pc.toNat with
  | .error f => fault f
  | .ok h =>
    match headerFault h with
    | some k => .bad (clauseTrap s.slate 2 k h 0 h)
    | none =>
      match s.fetchWords c.core c.region (hdrCount h + 1) 1 (p.side.pc.toNat + 8) with
      | .error f => fault f
      | .ok ws =>
        match s.entryBarrier c h with
        | some x => x
        | none =>
          if c.entryBatches h ≠ [] then .onBatch (c.entryBatches h) h else s.readyWords r c p h ws

/-- Does a crew run: it is resident, and its region runs (R20)? -/
def State.crewRuns (s : State) (c : Crew) : Bool :=
  c.state == .resident && (match s.region? c.region with | some g => g.state == .running | none => false)

/-- Are instructions that a pre-emption stopped still to be issued again, before a clause of their crew (R58), or is one being
issued again, which the other peer's words come after where a split followed it (R72, R228)? -/
def Crew.reissues (c : Crew) : Bool := c.allPaths.any (fun q => !q.2.recs.isEmpty || q.2.cont.isSome)

/-- How a path stands (R44). -/
def State.ready (s : State) (r : PathRef) : Ready :=
  match s.crew? r.crew with
  | none => .idle
  | some c =>
    match c.path? r.sel with
    | none => .idle
    | some p => if !s.crewRuns c || p.inside || p.wait != .none || c.reissues then .idle else s.readyAt r c p

/-! ### The issue scheduler (R45, R46, R60, R326) -/

/-- Is the path's priority lowered by a PAUSE (R46)? -/
def Path.low (p : Path) (cycles : Nat) : Bool := match p.lowUntil with | some t => decide (cycles < t) | none => false

/-- A path that may issue: its crew's slot, whether its priority is lowered, and its age. -/
structure Rival where
  ref : PathRef
  slot : Nat
  low : Bool
  age : Nat
  deriving DecidableEq, Repr

/-- Does an Eligible path go before another of its quadrant (R45, R46, R60): normal priority, then age, then the lower
slot? -/
def Rival.ahead (a b : Rival) : Bool :=
  if a.low != b.low then b.low
  else if a.age != b.age then decide (b.age < a.age)
  else decide (a.slot < b.slot)

/-- The one of a list that goes first; among peers of one crew the taken one, which stands first (R60). -/
def firstRival : List Rival → Option Rival
  | [] => none
  | x :: r =>
    match firstRival r with
    | none => some x
    | some y => if y.ahead x then some y else some x

/-- Is a path Eligible (R44)? -/
def State.eligible (s : State) (r : PathRef) : Bool := match s.ready r with | .go _ _ => true | _ => false

/-- The Eligible paths of a quadrant. -/
def State.rivals (s : State) (core quad : Nat) : List Rival :=
  ((s.crewsOn core).filter (fun c => c.quad == quad)).flatMap (fun c =>
    (c.allPaths.filter (fun q => s.eligible { crew := c.id, sel := q.1 })).map (fun q =>
      { ref := { crew := c.id, sel := q.1 }, slot := c.slot, low := q.2.low s.cycles, age := q.2.age }))

/-- The quadrant that draws at a place of the rotation: in each cycle all four, beginning one further on (R326). -/
def turnQuad (t : Nat) : Nat := (t / 4 + t % 4) % 4

/-- The path of a core whose clause issues next, with its place in the rotation (R45, R60, R326). DESIGN CHOICE for the
place at which the rotation begins (log 10). -/
def State.issuer (s : State) (core : Nat) : Option (PathRef × Nat) :=
  let firsts := (List.range 4).map (fun q => firstRival (s.rivals core q))
  ((List.range 16).map (fun i => ((s.core core).turn + i) % 16)).findSome? (fun t =>
    (firsts.getD (turnQuad t) none).map (fun x => (x.ref, t)))

/-- The draw of a clause (R326): from the crew's reserve first, then from the unreserved balance. -/
def State.drawClause (s : State) (c : Crew) (n : Nat) : State :=
  let own := min c.reserve n
  let t := (s.updCrew c.id (fun d => { d with reserve := d.reserve - own })).updCore c.core (fun k =>
    { k with bal := k.bal - (n - own) })
  { t with power := { t.power with drawn := t.power.drawn + n } }

/-- The path is inside the clause, its words about to be handed off (R99). -/
def State.enterClause (s : State) (r : PathRef) (h : Word) (ws : List Word) : State :=
  s.updPath r (fun p => { p with hdr := h, words := ws, idx := 0, inside := true, age := 0, starved := none })

/-- Carry out what a path at a clause boundary comes to. -/
def State.issue (s : State) (r : PathRef) (core : Nat) (c : Crew) : Ready → State
  | .idle | .scoreboard => s
  | .fetchFault f => s.updPath r (fun p => { p with wait := .fault f s.now })
  | .bad t => ((s.updPath r (fun p => { p with starved := none })).releaseHold core (fun x => x == r)).takeTrap r t
  | .pending n b t => (s.setBarrier core n { b with pending := none }).takeTrap r t
  | .onBarrier n b h =>
    let t := s.updPath r (fun p => { p with wait := .entry n b.gen, hdr := h })
    if b.expired then t.barrierFault core n 2 b else t
  | .onBatch bs h => (s.updPath r (fun p => { p with wait := .waitb bs none, hdr := h })).waitbJudge r
  | .tokens => s.updPath r (fun p => { p with starved := some (p.starved.getD s.cycles) })
  | .coreHeld => s.updPath r (fun p => { p with starved := none })
  | .go h ws =>
    match s.issuer core with
    | none => s
    | some x =>
      if x.1 = r then
        (((s.drawClause c (4 * hdrPrice h)).releaseHold core (fun x => x == r)).enterClause r h ws).updCore core (fun k =>
          { k with turn := (x.2 + 1) % 16 })
      else s

/-- CLAUSE_ISSUE (R99): an Eligible path issues when it is the one that its core's schedulers choose. -/
def execClauseIssue (r : PathRef) (s : State) : Host.Outcome State Fault Refusal :=
  .next (match s.crew? r.crew with
    | none => s
    | some c => s.issue r c.core c (s.ready r))

/-! ### Holds (R327) -/

/-- Paths of a core that have been token-stalled for 256 cycles on end and are so still, with the order in which a hold
chooses among them. -/
def State.starvedOn (s : State) (core : Nat) : List (PathRef × Nat × Nat) :=
  (s.crewsOn core).flatMap (fun c => c.allPaths.filterMap (fun q =>
    match q.2.starved with
    | some t => if t + 256 ≤ s.cycles ∧ s.ready { crew := c.id, sel := q.1 } = .tokens then some ({ crew := c.id, sel := q.1 }, t, c.slotNo) else none
    | none => none))

/-- The first in order: stalled longest, then the lower quadrant and slot (R327). DESIGN CHOICE (log 120): of two peers of one crew
that are stalled equally long, the taken one. -/
def chooseHold : List (PathRef × Nat × Nat) → Option (PathRef × Nat × Nat)
  | [] => none
  | x :: r =>
    match chooseHold r with
    | none => some x
    | some y => if y.2.1 < x.2.1 ∨ (y.2.1 = x.2.1 ∧ y.2.2 < x.2.2) then some y else some x

/-- CORE_BUCKET_HOLD (R327). -/
def execCoreBucketHold (core : Nat) (s : State) : Host.Outcome State Fault Refusal :=
  .next (if (s.core core).hold.isSome then s
    else match chooseHold (s.starvedOn core) with
      | none => s
      | some x =>
        ((s.crewsOn core).filter (fun c => c.id != x.1.crew)).foldl (fun t c => t.returnReserve c.id)
          (s.updCore core (fun k => { k with hold := some x.1 })))

/-! ### Eligibility histograms (R383) -/

/-- Why a path at hand is not Eligible, by R383's table. Words still in their engines count as the scoreboard's.
DESIGN CHOICE (log 36). -/
def State.stallReason (s : State) (r : PathRef) (p : Path) : Option Nat :=
  match p.wait with
  | .barrier _ _ => some 4
  | .step _ => some 5
  | .entry _ _ => some 2
  | .waitb _ none => some (if p.inside then 10 else 3)
  | .waitb _ (some _) | .waitc _ _ _ _ _ _ _ => some 10
  | .paused _ _ => some 8
  | .atJoin => some 9
  | .fault _ _ => some 11
  | .sysc _ _ _ _ _ => some 12
  | .held _ => some 13
  | .ratom _ _ _ _ | .slices _ | .room _ | .stopped => some 1
  | .none =>
    if p.inside then some 1
    else match s.ready r with
      | .scoreboard | .idle => some 1
      | .onBarrier _ _ _ => some 2
      | .onBatch _ _ => some 3
      | .tokens => some 6
      | .coreHeld => some 7
      | _ => none

/-- The crew of a list that started first. -/
def firstStarted : List Crew → Option Crew
  | [] => none
  | c :: r =>
    match firstStarted r with
    | none => some c
    | some d => if d.started < c.started then some d else some c

/-- The counters of a quadrant that a cycle is charged to (R383): how many crews had an Eligible path, and the reason where
none had. DESIGN CHOICE (log 125): of two peers, the taken one counts as the crew's older path. -/
def State.histIndex (s : State) (core quad : Nat) : List Nat :=
  let cs := (s.crewsOn core).filter (fun c => c.quad == quad)
  let able := cs.filter (fun c => c.allPaths.any (fun q => (s.stallReason { crew := c.id, sel := q.1 } q.2).isNone))
  if !able.isEmpty then [min able.length 8]
  else
    match firstStarted cs with
    | none => [0, 9]
    | some c =>
      match c.allPaths with
      | [] => [0, 10]
      | q :: _ => [0, 9 + (s.stallReason { crew := c.id, sel := q.1 } q.2).getD 1]

/-- Add cycles to the 48-bit counter of each quadrant that they are charged to (R383). -/
def State.countCycles (s : State) (n : Nat) : State :=
  { s with hist := s.hist.zipIdx.map (fun q =>
      (s.histIndex (q.2 / 4) (q.2 % 4)).foldl (fun l i => setAt l i ((l.getD i 0 + n) % 2 ^ 48)) q.1) }

/-- A tick of n cycles for the paths (R45, R327): the age of an Eligible path grows, and a path stays token-stalled only
while its clause is not covered. A path that is no longer Eligible keeps its age. DESIGN CHOICE (log 105). -/
def State.agePaths (s : State) (n : Nat) : State :=
  { s with crews := s.crews.map (fun c => c.mapSel (fun sel p =>
      match s.ready { crew := c.id, sel := sel } with
      | .go _ _ => { p with age := p.age + n, starved := none }
      | .tokens => { p with starved := some (p.starved.getD s.cycles) }
      | _ => { p with starved := none })) }

/-- May the self-test of a core's array run (R334): no path of the core is Eligible or token-stalled, and no matrix
instruction is under way on it? -/
def State.arrayIdle (s : State) (core : Nat) : Bool :=
  (s.crewsOn core).all (fun c => c.allPaths.all (fun q =>
    (match q.2.wait with | .slices _ => false | _ => true) && !q.2.flights.any (fun f => f.matrix) &&
    (match s.ready { crew := c.id, sel := q.1 } with | .go _ _ | .tokens | .coreHeld => false | _ => true)))

/-- How far a tick moves SLATE (R323): by 1, or, when the last 999 ticks were counted so, by 0 or 2 where firmware corrects
drift, by a free choice. No tick is skipped at which a debug stop is armed. -/
def State.slateStep (s : State) : Nat :=
  if s.firm.steady < 999 then 1
  else
    let k := Config.freeChoice s.free % 3
    if k = 2 ∧ s.dbg.stop ∧ s.slate + 1 = s.dbg.dbgstop then 1 else k

/-- SLATE_TICK (R323, R325, R333, R347, R383): the limiters sample, the refill passes down, the tick is counted; what the
routers hold leaves. c0 to c3 are the core-rail currents of the dies in mA. -/
def execSlateTick (c0 c1 c2 c3 : Nat) (s : State) : Host.Outcome State Fault Refusal :=
  let s1 := ([c0, c1, c2, c3] : List Nat).zipIdx.foldl (fun t q =>
    t.updDie q.2 (fun d => d.sample s.power.gcfg.ilim q.1)) s
  let s2 : State := { s1 with power := { s1.power with bal := s1.power.bal + 1000 * (s1.power.rate - s1.power.uncore) } }
  let s3 := s2.passDown
  let s4 := s3.offerBallast s3.arrayIdle
  let s5 : State := { s4 with cores := s4.cores.map (fun c => if c.hold.isSome then { c with heldTicks := c.heldTicks + 1 } else c) }
  let s6 : State := { s5.drainRouters with
    slate := s.slate + BitVec.ofNat 64 s.slateStep
    firm := { s5.drainRouters.firm with steady := if s.slateStep = 1 then s.firm.steady + 1 else 0 } }
  let s7 := (s6.countCycles (s6.cycles - s.cycles)).agePaths (s6.cycles - s.cycles)
  .next (if intervalOf s6.now = s.power.interval then s7 else s7.post (.gafferInterval (Config.uncoreDraw s.free)))

end Sys2Proof.Machine
end

