-- ==== Sys2Proof/Machine/Crews.lean ====
section
/-! DEFINITION. The life of crews and the end of regions: dispatch and pre-emption (R15, R24, R30, R31, R36, R38, R55, R58,
R384), liveness and save (R56, R57, R125 to R127), the end of a crew (R13, R386), and the end of a region (R20, R27). -/

namespace Sys2Proof.Machine

/-! ### Placement (R30, R67, R384) -/

/-- Crews that hold a slot of a quadrant. -/
def State.crewsIn (s : State) (core quad : Nat) : List Crew := (s.crewsOn core).filter (fun c => c.quad == quad)

/-- The lowest contiguous run of free 4 KiB units of a quadrant's URS for a window (R30, R67). -/
def State.freeRun (s : State) (core quad win : Nat) : Option Nat :=
  ((List.range Config.unitsPerQuad).filter (fun u =>
    decide (u + win ≤ Config.unitsPerQuad) &&
    (s.crewsIn core quad).all (fun c => decide (c.unit + c.win ≤ u) || decide (u + win ≤ c.unit)))).head?

/-- The lowest free slot of a quadrant. -/
def State.freeSlot (s : State) (core quad : Nat) : Option Nat :=
  ((List.range Config.slots).filter (fun k => (s.crewsIn core quad).all (fun c => c.slot != k))).head?

/-- The first element of a list with the largest key. -/
def firstMax {α : Type} (key : α → Nat) : List α → Option α
  | [] => none
  | x :: r =>
    match firstMax key r with
    | none => some x
    | some y => if key x < key y then some y else some x

/-- A place within a core: quadrant, slot, window base. -/
structure Place where
  quad : Nat
  slot : Nat
  unit : Nat
  deriving DecidableEq, Repr

/-- A place in a quadrant, when it has a free slot and room for the window. -/
def State.placeIn (s : State) (core win quad : Nat) : Option Place :=
  match s.freeSlot core quad, s.freeRun core quad win with
  | some k, some u => some { quad := quad, slot := k, unit := u }
  | _, _ => none

/-- Where a crew goes in a core (R384): among the quadrants with room the one with the most free slots, the lower on a
tie. -/
def State.placeOn (s : State) (core win : Nat) : Option Place :=
  firstMax (fun p => Config.slots - (s.crewsIn core p.quad).length)
    ((List.range 4).filterMap (fun q => s.placeIn core win q))

/-- The core among a list that takes a crew (R30): of those with room, the one with the most free slots, the lower index on
a tie. -/
def State.chooseCore (s : State) (win : Nat) (cores : List Nat) : Option Nat :=
  firstMax (fun k => 32 - (s.crewsOn k).length) (cores.filter (fun k => (s.placeOn k win).isSome))

/-! ### Candidates (R30, R31) -/

/-- A dispatch candidate of a die. -/
inductive Candidate where
  | seed (region : Nat) (q : Request)
  | request (q : Request)
  | cast (cluster : Nat) (x : Cast)
  | restore (c : Crew)
  deriving DecidableEq, Repr

/-- Is a saved crew ready for restore (R32)? -/
def Crew.restorable (c : Crew) : Bool :=
  match c.state with
  | .saved .waitsp => c.children == 0
  | .saved _ => true
  | _ => false

/-- The clusters of a die. -/
def clustersOfDie (d : Nat) : List Nat := (List.range 16).map (fun i => d * 16 + i)

/-- All candidates of a die. -/
def State.candidates (s : State) (die : Nat) : List Candidate :=
  s.regions.filterMap (fun g => match g.seed with
    | some q => if q.die = die then some (Candidate.seed g.id q) else none
    | none => none) ++
  (s.die die).spawnQ.map Candidate.request ++
  (clustersOfDie die).flatMap (fun k => (s.cluster k).casts.map (Candidate.cast k)) ++
  (s.crews.filter (fun c => c.restorable && dieOf c.core == die)).map Candidate.restore

/-- Region of a candidate. -/
def Candidate.region : Candidate → Nat
  | .seed g _ => g
  | .request q => q.region
  | .cast _ x => x.region
  | .restore c => c.region

/-- When a candidate came to be. -/
def Candidate.since : Candidate → Nat
  | .seed _ q => q.since
  | .request q => q.since
  | .cast _ x => x.since
  | .restore c => c.since

/-- Is it a restore? -/
def Candidate.isRestore : Candidate → Bool
  | .restore _ => true
  | _ => false

/-- Priority of a region. -/
def State.prio (s : State) (region : Nat) : Nat :=
  match s.region? region with
  | some g => g.rcb.prio
  | none => 0

/-- The age of a candidate among all: its own, but a restore goes ahead of the seed, the requests and the cast crews of its
region (R31), and so takes the place of the oldest of these where that is older than itself. DESIGN CHOICE (log 94). -/
def Candidate.age (l : List Candidate) (c : Candidate) : Nat :=
  if c.isRestore then
    (l.filter (fun x => x.region == c.region && !x.isRestore)).foldl (fun n x => min n x.since) c.since
  else c.since

/-- Does candidate a go before b (R30, R31)? -/
def State.before (s : State) (l : List Candidate) (a b : Candidate) : Bool :=
  let pa := s.prio a.region
  let pb := s.prio b.region
  decide (pb < pa) || (pa == pb &&
    (decide (a.age l < b.age l) || (a.age l == b.age l &&
      ((a.isRestore && !b.isRestore) || (a.isRestore == b.isRestore && decide (a.since < b.since))))))

/-- Insert a candidate behind all that do not come after it. -/
def State.insertCandidate (s : State) (l : List Candidate) (x : Candidate) : List Candidate → List Candidate
  | [] => [x]
  | y :: r => if s.before l x y then x :: y :: r else y :: State.insertCandidate s l x r

/-- The candidates of a die in the order in which the front end takes them. -/
def State.ordered (s : State) (die : Nat) : List Candidate :=
  (s.candidates die).foldl (fun a x => s.insertCandidate (s.candidates die) x a) []

/-- Live crews of a region, resident and saved (R17). -/
def State.liveCrews (s : State) (region : Nat) : Nat :=
  (s.crews.filter (fun c => c.region == region && c.live != 0)).length

/-- The cores that may take a candidate (R14, R30, R38). -/
def State.coresFor (s : State) (g : Region) : Candidate → List Nat
  | .restore c => [c.core]
  | .cast k _ => (s.coresOf g.rcb).filter (fun n => clusterOf n == k)
  | _ => s.coresOf g.rcb

/-! ### The save area (R19, R57) -/

/-- The addresses of the pages of a part of a region's save area (R19, R57): the area holds one part of a window and 4 KiB for each
crew; which part a crew takes, and the layout in it, the rules leave open (log 19). -/
def Region.areaPages (g : Region) (part : Nat) : List Nat :=
  let n := g.rcb.win + 1
  ((List.range n).filter (fun k => decide (part * n + k < g.rcb.spills))).map (fun k => g.rcb.spillb.toNat + (part * n + k) * 4096)

/-- The part that a save takes now. -/
def State.savePart (s : State) (g : Region) : Nat := Config.freeChoice s.free % g.rcb.maxCrews

/-- The leaf entries and pages of a part of a region's save area. -/
def State.areaLeaves (s : State) (g : Region) (part : Nat) : List (Nat × Nat) :=
  (g.areaPages part).filterMap (fun va =>
    match s.lookup noCore va with
    | .leaf e p => some (e, p)
    | .bad _ _ => none)

/-- The leaf entries and pages that a save uses now. -/
def State.saveLeaves (s : State) (g : Region) : List (Nat × Nat) := s.areaLeaves g (s.savePart g)

/-- Does an access to a part of a save area meet a page that the host owns: a migration fault, which holds the save or the restore
until firmware has the page back (R217)? -/
def State.areaHeld (s : State) (g : Region) (part : Nat) : Bool := (s.areaLeaves g part).any (fun q => bit q.1 59)

/-- Is the save of a crew of a region held so? -/
def State.saveHeld (s : State) (region : Nat) : Bool :=
  match s.region? region with
  | none => false
  | some g => s.areaHeld g (s.savePart g)

/-- The save area holds the saved crew in the implementation's layout: free bytes (R57, log 19). A page that the reel guards is
copied first, as at any first store to it (R382). -/
def State.writeArea (s : State) (region : Nat) : State :=
  match s.region? region with
  | none => s
  | some g =>
    (s.saveLeaves g).foldl (fun t q =>
      t.gWriteAt q.2 ((List.range 4096).map (fun j => Config.saveByte s.free (q.2 + j))))
      ((g.areaPages (s.savePart g)).foldl (fun t va => t.reelFault va) s)

/-- May a candidate be dispatched, room apart (R30)? A restore reads its part of the save area, which the host may not own (R217). -/
def State.admits (s : State) (g : Region) (c : Candidate) : Bool :=
  g.state == .running &&
  (match c with
   | .restore d => !s.areaHeld g d.area
   | _ => decide (s.liveCrews g.id < g.rcb.maxCrews))

/-! ### Start of a crew (R15, R24, R36) -/

/-- The arguments of cast lanes in v0, v1 and v2 under the region's VIEWV image (R36); bytes outside the window are not
written. -/
def castArgs (view : BitVec 32) (win : Nat) (ts : List LaneTask) : Memory :=
  let put1 (m : Memory) (n j : Nat) (x : BitVec 32) : Memory :=
    let off := (viewBase view + n) * 256 + 4 * j
    if off + 4 ≤ win * 4096 then Memory.writeNat m off 4 x.toNat else m
  ts.zipIdx.foldl (fun m q => put1 (put1 (put1 m 0 q.2 q.1.a1) 1 q.2 q.1.a2) 2 q.2 q.1.a3) []

/-- A path at an entry address (R15). -/
def startPath (pc : Word) (live : Mask) : Path :=
  { side := { exm := live, members := live, pc := pc, frames := [], reached := false, pushed := 0, waited := 0 },
    stack := [], hdr := 0, words := [], idx := 0, inside := false, flights := [], wait := .none, lowUntil := none,
    starved := none, gather := 0, age := 0, recs := [], cont := none, kept := none }

/-- The scalars of a crew that starts (R15): the kernel argument, the crew argument, the start location. -/
def startScalars (karg arg : Word) (core : Nat) (p : Place) : List Word :=
  [karg, arg, BitVec.ofNat 64 (core % 256 + p.quad % 4 * 2 ^ 8 + p.slot % 8 * 2 ^ 10)] ++ List.replicate 61 0

/-- A crew as it starts (R15, R65, R73, R244). FMTC starts at 3, the reset value of its fields (R90). -/
def startCrew (id : Nat) (g : Region) (core : Nat) (p : Place) (pc arg : Word) (lanes : Nat) (spawner : Option Nat)
    (urs : Memory) (now : Nat) : Crew :=
  let live : Mask := maskOf (fun i => decide (i < lanes))
  { id := id, region := g.id, core := core, quad := p.quad, slot := p.slot, unit := p.unit, state := .resident,
    since := now, started := now, parent := spawner, live := live, paths := .one (startPath pc live),
    s := startScalars g.rcb.karg arg core p, k := List.replicate 8 0, urs := urs, win := g.rcb.win,
    views := { v := viewKeep g.rcb.views.v.toNat, w := viewKeep g.rcb.views.w.toNat,
               t := viewKeep g.rcb.views.t.toNat, a := viewKeep g.rcb.views.a.toNat,
               d := viewKeep g.rcb.views.d.toNat },
    sys := { fmtc := 3, fpxf := 0, cbt := [0, 0, 0, 0], tsig := 0, trapc := 0, trapv := 0, trappc := 0 },
    tags := List.replicate 32 0, acc := List.replicate 32 { poison := false, resume := 0, rword := 0 }, children := 0,
    reserve := 0, handler := none, lastRec := none,
    batches := { openSerial := 0, sealedB := [], last := none, recs := [] }, arrivals := [], stepped := none }

/-- The first crew of a region on a core refreshes it (R24, R201). -/
def State.firstOn (s : State) (core region : Nat) : State :=
  if (s.core core).ran.contains region then s
  else (s.refresh core).updCore core (fun k => { k with ran := k.ran ++ [region] })

/-- Start a crew at a place. -/
def State.startAt (s : State) (g : Region) (core : Nat) (p : Place) (pc arg : Word) (lanes : Nat) (spawner : Option Nat)
    (urs : Memory) : State :=
  let c := startCrew s.nextId g core p pc arg lanes spawner urs s.stamp
  { s.firstOn core g.id with crews := s.crews ++ [c], nextId := s.nextId + 1, stamp := s.stamp + 1 }

/-- Remove a candidate from where it is held. -/
def State.takeCandidate (s : State) (die : Nat) : Candidate → State
  | .seed g _ => s.updRegion g (fun x => { x with seed := none })
  | .request q => s.updDie die (fun d => { d with spawnQ := d.spawnQ.erase q })
  | .cast k x => s.updCluster k (fun c => { c with casts := c.casts.erase x })
  | .restore _ => s

/-- A saved crew resumes (R14, R32, R58): after a WAITSP with an acquire at package scope. -/
def State.restoreAt (s : State) (c : Crew) (p : Place) : State :=
  let t := s.updCrew c.id (fun d => { d with state := .resident, quad := p.quad, slot := p.slot, unit := p.unit })
  if c.state = .saved .waitsp then t.refresh c.core else t

/-- Place a candidate on a core. -/
def State.placeCandidate (s : State) (die : Nat) (g : Region) (core : Nat) (p : Place) (c : Candidate) : State :=
  let t := s.takeCandidate die c
  match c with
  | .seed _ q => t.startAt g core p q.entry q.arg Config.creww q.spawner []
  | .request q => t.startAt g core p q.entry q.arg Config.creww q.spawner []
  | .cast _ x =>
    t.startAt g core p (g.rcb.entry + BitVec.ofNat 64 (8 * x.entry.toNat)) (x.entry.zeroExtend 64) x.tasks.length none
      (castArgs g.rcb.views.v g.rcb.win x.tasks)
  | .restore d => t.restoreAt d p

/-! ### Pre-emption (R55) -/

/-- The crew that makes room for a candidate (R55): of lower priority, resident on one of the cores; the lowest priority,
then the one started last, also where its leaving alone does not make the candidate fit. DESIGN CHOICE (log 59). -/
def State.victim (s : State) (prio : Nat) (cores : List Nat) : Option Crew :=
  let cs := s.crews.filter (fun c => c.state == .resident && cores.contains c.core && decide (s.prio c.region < prio))
  let low := cs.foldl (fun n c => min n (s.prio c.region)) prio
  firstMax (fun c => c.started) (cs.filter (fun c => s.prio c.region == low))

/-- Is a crew of these cores already being saved? -/
def State.savingOn (s : State) (cores : List Nat) : Bool := s.crews.any (fun c => c.saving && cores.contains c.core)

/-- Take the candidates in order until one is placed or a crew is pre-empted for one. A candidate that cannot be dispatched, or for
which a crew is still being saved, blocks no candidate of another region (R30); those of its own region, which come after it, wait
behind it, a spawn request behind a restore among them (R31). DEDUCED (log 37). The last argument lists the regions so shut. -/
def State.dispatchFirst (s : State) (die : Nat) : List Candidate → List Nat → State
  | [], _ => s
  | c :: r, shut =>
    match s.region? c.region with
    | none => State.dispatchFirst s die r shut
    | some g =>
      let on : State := State.dispatchFirst s die r (g.id :: shut)
      if shut.contains g.id || !s.admits g c then on
      else
        let cores := s.coresFor g c
        match s.chooseCore g.rcb.win cores with
        | some k =>
          (match s.placeOn k g.rcb.win with
           | some p => s.placeCandidate die g k p c
           | none => s)
        | none =>
          if s.savingOn cores then on
          else match s.victim g.rcb.prio cores with
            | some v => s.updCrew v.id (fun x => { x with state := .saving .preempt })
            | none => on

/-- CREW_DISPATCH (R30). After a mismatch of the Lantern pair it pauses (R376). -/
def execCrewDispatch (die : Nat) (s : State) : Host.Outcome State Fault Refusal :=
  .next (if s.now < s.firm.pausedUntil || !s.inService die then s else s.dispatchFirst die (s.ordered die) [])

/-! ### Liveness (R125 to R127) -/

/-- Is a fault the migration fault of a page that the host owns (R217)? -/
def MemFault.migrates (f : MemFault) : Bool := f.cls == 9 && f.replayable

/-- A read of a liveness table (R125): a page that is not mapped readable gives no entry (error false); one that the host owns gives
the migration fault, and the read is replayed when firmware has the page (R217) (error true). Any other fault gives no entry. DESIGN
CHOICE (log 116). -/
def State.tableRead (s : State) (region a n : Nat) : Except Bool (List Byte) :=
  match s.gRead noCore region a n with
  | .ok b => .ok b
  | .error f => .error f.migrates

/-- The liveness entry of a clause (R125): its 40 bytes, or why there is none, as State.tableRead answers. -/
def State.findLive (s : State) (region pc : Nat) : Except Bool (List Byte) :=
  match s.firm.codeMap.find? (fun x => decide (x.1 ≤ pc) && decide (pc < x.1 + 8 * x.2.1)) with
  | none => .error false
  | some x =>
    match s.tableRead region x.2.2 64 with
    | .error h => .error h
    | .ok hd =>
      if bits (word8 hd 0) 31 0 ≠ 0x4556494C ∨ bits (word8 hd 0) 47 32 ≠ 1 then .error false
      else
        let w := (pc - x.1) / 8
        let block := w / 512
        match s.tableRead region (x.2.2 + word8 hd 0x20 + 64 * block) 64, s.tableRead region (x.2.2 + word8 hd 0x28 + 4 * block) 4 with
        | .ok bm, .ok rk =>
          if !bit (ofBytes bm) (w % 512) then .error false
          else s.tableRead region (x.2.2 + word8 hd 0x30 + 40 * (ofBytes rk + popcount (w % 512) (ofBytes bm))) 40
        | .ok bm, .error h => .error (h && bit (ofBytes bm) (w % 512))
        | .error h, _ => .error h

/-! ### Save (R56, R57, R264, R290) -/

/-- The program counter of a path that stands at a save point, none inside a clause. A path in BARW, BARS or STEP stands at
the next clause (R56). -/
def Path.savePc (p : Path) : Option Word :=
  if !p.inside then some p.side.pc
  else match p.wait with
    | .barrier _ _ | .step _ => some p.nextClause
    | _ => none

/-- Is a path at a save point (R56): at a clause boundary, in a wait that is saved, or stopped at a word by a fault or a trap? -/
def Path.atSavePoint (p : Path) : Bool :=
  p.flights.isEmpty && (!p.inside ||
    (match p.wait with
     | .barrier _ _ | .step _ | .fault _ _ | .stopped | .held _ => true
     | _ => false))

/-- Has a crew a product that a pre-emption stops (R56)? -/
def Crew.stopsProduct (c : Crew) : Bool := c.allPaths.any (fun q => q.2.inSlices && c.stoppable q.1 q.2)

/-- May CREW_SAVE act: a product is to be stopped, or every path stands at a save point? -/
def Crew.saveReady (c : Crew) : Bool := c.saving && (c.stopsProduct || c.allPaths.all (fun q => q.2.atSavePoint))

/-- Does the lookup of a liveness entry of a crew's paths meet a page that the host owns: a migration fault, which holds the save until
firmware has the page back (R217)? -/
def State.liveHeld (s : State) (c : Crew) : Bool :=
  c.allPaths.any (fun q =>
    match (q.2.savePc).map (fun pc => s.findLive c.region pc.toNat) with
    | some (.error held) => held
    | _ => false)

/-- The union of the liveness entries of a crew's paths; none when the whole window is to be saved (R57). -/
def State.liveOf (s : State) (c : Crew) : Option (Nat × Nat) :=
  c.allPaths.foldl (fun acc q =>
    match acc, (q.2.savePc).bind (fun pc => (s.findLive c.region pc.toNat).toOption) with
    | some (g, n), some b => some (g ||| ofBytes (b.take 32), n ||| ofBytes (b.drop 32))
    | _, _ => none) (some (0, 0))

/-- The registers that a valid RESUME keeps whole (R264). -/
def Crew.resumeGranules (c : Crew) : List Nat :=
  (List.range 32).flatMap (fun d =>
    if !bit (c.side d).resume.toNat 63 then []
    else c.granulesOf .acc d ++
      (match (decodeWord false (c.side d).rword).bind productOf with
       | some (o, _) =>
         (if o.ra = 1 then c.granulesOf .tile o.ta.toNat else []) ++
         (if o.rb = 1 then c.granulesOf .tile o.tb.toNat else [])
       | none => []))

/-- The granules of the spill area, while entries are spilled (R41). -/
def Crew.spillGranules (c : Crew) : List Nat :=
  if c.spilled then (List.range 4).map (fun j => c.win * 16 - 4 + j) else []

/-- The registers that the recorded instructions of a crew read or write. DEDUCED (log 91): they are saved with them. -/
def Crew.recUnits (c : Crew) : List SbUnit :=
  c.allPaths.flatMap (fun q => (q.2.recs.flatMap c.recFlight).flatMap (fun f => f.reads ++ f.writes))

/-- What a save keeps of a crew's registers (R57, R290): live granules and scalars with the tags of live distribution
registers; the rest reads zero. -/
def Crew.keep (c : Crew) (glive slive : Nat) : Crew :=
  let more := c.resumeGranules ++ c.spillGranules
  let rs := c.recUnits
  let saved (g : Nat) : Bool := (bit glive g || more.contains g || rs.contains (.granule g)) && decide (g < c.win * 16)
  { c with
    urs := c.urs.filter (fun x => saved (x.1 / 256))
    s := c.s.zipIdx.map (fun q => if bit slive q.2 || rs.contains (.scalar q.2) then q.1 else 0)
    tags := c.tags.zipIdx.map (fun q => if (c.granulesOf .dist q.2).any saved then q.1 else 0) }

/-- A path as it is saved (R47, R56): a pause ends; an entry wait is a clause boundary; one that a fault stopped is resumed by
the restore (R58, R364). -/
def Path.saved (p : Path) : Path :=
  { p with
    starved := none
    wait := match p.wait with
      | .paused _ _ | .entry _ _ | .waitb _ _ | .fault _ _ => .none
      | w => w }

/-- Stop the products in flight that may be stopped at a slice boundary (R56, R263): each is recorded, and its path goes on with the
rest of the clause that has issued (R99). -/
def State.stopSlices (s : State) (c : Crew) : State :=
  c.allPaths.foldl (fun t q =>
    match q.2.wait, q.2.here, t.crew? c.id with
    | .slices run, some i, some d =>
      (match productOf i with
       | some (o, pr) =>
         let r : PathRef := { crew := c.id, sel := q.1 }
         if d.stoppable q.1 q.2 then (t.under r (fun u => u.sliceStop d run o pr (q.2.words.getD q.2.idx 0))).record r else t
       | none => t)
    | _, _, _ => t) s

/-- Save a crew (R57, R290): the live part of its registers, or the whole window; its slot, its window and its reserve are
given back. -/
def State.saveCrew (s : State) (c : Crew) (why : SaveWhy) : State :=
  let lv := (s.liveOf c).getD (2 ^ (c.win * 16) - 1, 2 ^ 64 - 1)
  let s1 := (s.returnReserve c.id).writeArea c.region
  let part := ((s.region? c.region).map s.savePart).getD 0
  let s2 := s1.releaseHold c.core (fun x => x.crew == c.id)
  { s2.updCrew c.id (fun d =>
      { (d.keep lv.1 lv.2).mapPaths Path.saved with state := .saved why, since := s.stamp, area := part }) with
    stamp := s.stamp + 1 }

/-- CREW_SAVE (R56, R57): products in flight that may be are stopped first; once every path of the crew stands at a save point, it is
saved; a page of its save area, or of its liveness table, that the host owns holds the save (R217). -/
def execCrewSave (crew : Nat) (s : State) : Host.Outcome State Fault Refusal :=
  .next (match s.crew? crew with
    | none => s
    | some c =>
      match c.state with
      | .saving why =>
        if c.stopsProduct then s.stopSlices c
        else if c.allPaths.all (fun q => q.2.atSavePoint) && !s.saveHeld c.region && !s.liveHeld c then s.saveCrew c why
        else s
      | _ => s)

/-! ### Ends -/

/-- A crew leaves the package (R146, R343): its reserve returns, its slot and window are free, its copies are gone. -/
def State.removeCrew (s : State) (c : Crew) : State :=
  let t := (s.returnReserve c.id).releaseHold c.core (fun x => x.crew == c.id)
  { t with crews := t.crews.filter (fun d => d.id != c.id), copies := t.copies.filter (fun x => x.crew != c.id) }

/-- Is everything that a crew issued complete (R386)? -/
def State.crewDone (s : State) (c : Crew) : Bool :=
  c.state == .ending && c.live == 0 && c.allPaths.all (fun q => q.2.flights.isEmpty && q.2.recs.isEmpty) &&
  (s.copies.filter (fun x => x.crew == c.id)).all (fun x => !x.running)

/-- CREW_END (R25, R146, R386): once everything the crew issued is complete, its end counts for the spawning crew and in
CNT. Barriers and steps have had it at EXIT. -/
def execCrewEnd (crew : Nat) (s : State) : Host.Outcome State Fault Refusal :=
  .next (match s.crew? crew with
    | none => s
    | some c =>
      if !s.crewDone c then s
      else
        let s1 := s.removeCrew c
        let s2 := match c.parent with | some k => s1.childLeft k | none => s1
        s2.cntDown c.region)

/-- END_STORE_TIMEOUT (R27): a held store is dropped after 1,000,000 ticks, and the completion goes on. -/
def execEndStoreTimeout (region : Nat) (s : State) : Host.Outcome State Fault Refusal :=
  .next (match s.region? region with
    | none => s
    | some g =>
      match g.ending with
      | none => s
      | some e =>
        match e.fault with
        | none => s
        | some f =>
          if s.now ≤ e.since + Config.replayBound then s
          else
            let tv := g.endTarget e
            ((s.endStoreEvent g tv.1 tv.2 f.late.cls f.late.cause).setEnding region
              (some { e with step := e.step.succ, fault := none })).complete region)

/-- A region whose end is still to come. -/
def Region.open_ (g : Region) : Bool := g.live || g.ending.isSome

/-- Can a region that is being terminated end: no descendant is left and its copies have finished (R20, R386)? A copy in
flight when termination began runs on until it completes or faults, and writes the rest of its bytes into G. DESIGN CHOICE
(log 103). -/
def State.canEnd (s : State) (g : Region) : Bool :=
  g.state == .terminating && g.ending.isNone && s.regions.all (fun x => x.parent != some g.id || !x.open_) &&
  (s.copies.filter (fun c => c.region == g.id)).all (fun c => !c.running)

/-- The queued requests and records of a region are removed (R20). SSRT and SSRH of a ring that held a removed request keep
their counts. DESIGN CHOICE (log 95). -/
def State.dropQueued (s : State) (id : Nat) : State :=
  { s with
    dies := s.dies.map (fun d => { d with spawnQ := d.spawnQ.filter (fun q => q.region != id) })
    clusters := s.clusters.map (fun c =>
      { c with fifo := c.fifo.filter (fun t => t.region != id), casts := c.casts.filter (fun x => x.region != id) })
    regions := s.regions.map (fun g =>
      if g.id = id then { g with spawnRing := [], laneRing := [], seed := none, cnt := 0 }
      else { g with spawnRing := g.spawnRing.filter (fun q => q.region != id) }) }

/-- REGION_TERMINATED (R20, R27): crews, requests and records are discarded; then the steps of R27. -/
def execRegionTerminated (region : Nat) (s : State) : Host.Outcome State Fault Refusal :=
  .next (match s.region? region with
    | none => s
    | some g =>
      if !s.canEnd g then s
      else
        let cs := s.crews.filter (fun c => c.region == region)
        let s1 := cs.foldl (fun t c => t.removeCrew c) (s.dropQueued region)
        let s2 := (cs.map s.stepKey).foldl (fun t k => t.stepCheck k) s1
        (s2.beginEnd region).complete region)

end Sys2Proof.Machine
end

