-- ==== Sys2Proof/Machine/Dist.lean ====
section
/-! DEFINITION. Distribution registers (R269 to R292): elements and failing lanes, pairing, condensation, tags, and the
readings. Every rounding is RNE in FP32. -/

namespace Sys2Proof.Machine

/-! ### FP32 results with the flags of the steps that formed them (R79, R80) -/

/-- A pattern with the flags raised on the way to it. -/
abbrev Flagged := Nat × Flags

/-- A pattern that raised nothing. -/
def lit (x : Nat) : Flagged := (x, 0)
/-- The value of a pattern. -/
def Flagged.val (x : Flagged) : FVal := fp32.decode x.1
/-- Round an exact result of two operands. -/
def joined (a b : Flagged) (x : FVal × Bool) : Flagged :=
  let r := fp32.finish 0 x
  (r.1, a.2 ||| b.2 ||| r.2)
def dAddF (a b : Flagged) : Flagged := joined a b (FVal.add 0 a.val b.val)
def dSubF (a b : Flagged) : Flagged := joined a b (FVal.add 0 a.val b.val.neg)
def dMulF (a b : Flagged) : Flagged := joined a b (FVal.mul a.val b.val)
def dDivF (a b : Flagged) : Flagged :=
  let r := fp32.divide 0 a.val b.val
  (r.1, a.2 ||| b.2 ||| r.2)

/-- wgt (R274): an overflow gives the largest finite value; a zero is +0 (R269). -/
def wgt (x : FVal) : Flagged :=
  let r := fp32.round 0 x
  (if r.1 = fp32.infBits false then fp32.maxBits false else if r.1 = fp32.zeroBits true then 0 else r.1, r.2)

/-! ### Elements (R89, R269, R270) -/

/-- A point: value and weight patterns. -/
abbrev Point := Nat × Nat
/-- Is a pattern a NaN? -/
def isNan32 (x : Nat) : Bool := (fp32.decode x).isNan
/-- Is a weight zero? -/
def noWeight (w : Nat) : Bool := w % 2 ^ 31 == 0
/-- May a point's weight stand: finite and not negative (R89)? -/
def weightOk (w : Nat) : Bool := (fp32.decode w).isFinite && (noWeight w || !w.testBit 31)

/-- Do values not decrease? -/
def rising : List Point → Bool
  | p :: q :: r => decide (FVal.cmp (fp32.decode p.1) (fp32.decode q.1) ≤ 0) && rising (q :: r)
  | _ => true

/-- Well-formed (R89). -/
def wellFormed (ps : List Point) : Bool := ps.all (fun p => !isNan32 p.1 && weightOk p.2) && rising ps

/-- The element of a lane from its 32 bytes as a number, and back; a zero weight is written as +0. -/
def pointsOf (x : Nat) : List Point := (List.range 4).map (fun j => (bits x (64 * j + 31) (64 * j), bits x (64 * j + 63) (64 * j + 32)))
def elementNat (ps : List Point) : Nat :=
  ps.foldr (fun p acc => p.1 % 2 ^ 32 + (if noWeight p.2 then 0 else p.2 % 2 ^ 32) * 2 ^ 32 + acc * 2 ^ 64) 0

/-- The void element (R269). -/
def voidElement : List Point := List.replicate 4 (0, 0)

/-- What a lane gives: points with flags, or it fails. -/
abbrev LaneRes := Option (List Point × Flags)

/-- Insert a point into a list sorted by value, before the later points of equal value (R275). -/
def insertPoint (p : Point) : List Point → List Point
  | [] => [p]
  | q :: r => if FVal.cmp (fp32.decode p.1) (fp32.decode q.1) ≤ 0 then p :: q :: r else q :: insertPoint p r
/-- Step 1 of R275: equal values keep their order. -/
def sortPoints (ps : List Point) : List Point := ps.foldr insertPoint []

/-- A lane that has sources which are not well-formed fails (R270). -/
def checked (es : List (List Point)) (f : LaneRes) : LaneRes := if es.all wellFormed then f else none

/-! ### Candidates (R274) -/

/-- A candidate with its flags; none when its value is a NaN of non-zero weight. -/
def candidate (v w : Flagged) : Option (Point × Flags) :=
  if isNan32 v.1 then (if noWeight w.1 then some ((0, 0), v.2 ||| w.2 ||| flagNV) else none)
  else some ((v.1, w.1), v.2 ||| w.2)

/-- All candidates with their flags, or a failure. -/
def gather : List (Option (Point × Flags)) → LaneRes
  | [] => some ([], 0)
  | none :: _ => none
  | some c :: r =>
    match gather r with
    | none => none
    | some q => some (c.1 :: q.1, c.2 ||| q.2)

/-! ### Condensation (R275, R276) -/

/-- A cost: infinite, or a fraction of exact values. -/
structure Cost where
  inf : Bool
  num : FVal
  den : FVal
  deriving DecidableEq, Repr

/-- The cost of an adjacent pair. -/
def costOf (p q : Point) : Cost :=
  let zero : Cost := { inf := false, num := .fin false 0 0, den := .fin false 1 0 }
  let vi := fp32.decode p.1
  let vj := fp32.decode q.1
  let wi := fp32.decode p.2
  let wj := fp32.decode q.2
  if noWeight p.2 || noWeight q.2 then zero
  else if FVal.cmp vi vj = 0 then zero
  else if vi.isInf || vj.isInf then { zero with inf := true }
  else
    let d := (FVal.add 0 vi vj.neg).1
    { inf := false, num := (FVal.mul (FVal.mul wi wj).1 (FVal.mul d d).1).1, den := (FVal.add 0 wi wj).1 }

/-- Is a cost below another? -/
def Cost.below (a b : Cost) : Bool :=
  if a.inf then false else if b.inf then true
  else decide (FVal.cmp (FVal.mul a.num b.den).1 (FVal.mul b.num a.den).1 < 0)

/-- merge (R276); none when the lane fails. -/
def mergePoints (p q : Point) : Option (Point × Flags) :=
  let vi := fp32.decode p.1
  let vj := fp32.decode q.1
  let wi := fp32.decode p.2
  let wj := fp32.decode q.2
  if noWeight q.2 then some ((p.1, if noWeight p.2 then 0 else p.2), 0)
  else if noWeight p.2 then some (q, 0)
  else
    let w := wgt (FVal.add 0 wi wj).1
    if vi.isInf && vi.isNeg && vj.isInf && !vj.isNeg then none
    else if vi.isInf then some ((p.1, w.1), w.2)
    else if vj.isInf then some ((q.1, w.1), w.2)
    else
      let a := dMulF (lit p.2) (lit p.1)
      let b := dMulF (lit q.2) (lit q.1)
      let exact : Flagged :=
        fp32.divide 0 (FVal.add 0 (FVal.mul wi vi).1 (FVal.mul wj vj).1).1 (FVal.add 0 wi wj).1
      let v : Flagged :=
        if a.val.isInf || b.val.isInf then (exact.1, a.2 ||| b.2 ||| exact.2)
        else
          let n := dAddF a b
          if n.val.isInf then (exact.1, n.2 ||| exact.2) else dDivF n w
      let sat := if FVal.cmp v.val vi < 0 then p.1 else if 0 < FVal.cmp v.val vj then q.1 else v.1
      some ((sat, w.1), v.2 ||| w.2)

/-- The least position of a pair of least cost, from position k on. -/
def cheapest : Nat → List Point → Option (Nat × Cost)
  | k, p :: q :: r =>
    let c := costOf p q
    match cheapest (k + 1) (q :: r) with
    | none => some (k, c)
    | some b => if b.2.below c then some b else some (k, c)
  | _, _ => none

/-- Replace the points at positions k and k + 1 by one. -/
def replacePair (k : Nat) (x : Point) (ps : List Point) : List Point := ps.take k ++ x :: ps.drop (k + 2)

/-- Step 2 of R275, until four points are left. -/
def condenseLoop : Nat → List Point → Flags → LaneRes
  | 0, ps, f => some (ps, f)
  | n + 1, ps, f =>
    if ps.length ≤ 4 then some (ps, f)
    else
      match cheapest 0 ps with
      | none => some (ps, f)
      | some k =>
        match mergePoints (ps.getD k.1 (0, 0)) (ps.getD (k.1 + 1) (0, 0)) with
        | none => none
        | some x => condenseLoop n (replacePair k.1 x.1 ps) (f ||| x.2)

/-- condense of gathered candidates (R275): sorted, then merged down to four. -/
def condense (g : LaneRes) : LaneRes := g.bind (fun q => condenseLoop 16 (sortPoints q.1) q.2)

/-! ### Lanes of an instruction (R269, R270, R277) -/

/-- The element of lane i of a distribution register. -/
def Crew.points (c : Crew) (num i : Nat) : List Point := pointsOf (c.laneNat .dist num i)

/-- What an instruction leaves of a lane: points and flags; a failed lane is void with NV alone. -/
def laneEnd (r : LaneRes) : List Point × Flags := r.getD (voidElement, flagNV)

/-- Write elements to the active lanes, raise their flags, and set the tag when a lane is active (R271, R273, R292), whether
or not every active lane fails. DESIGN CHOICE (log 111). -/
def distOut (e : Env) (num : Nat) (pred : BitVec 3) (tag : Option (BitVec 32)) (f : Nat → LaneRes) : Res :=
  let act := activeMask e.v e.p.side.exm pred
  let rs := (maskLanes act).map (fun i => (i, laneEnd (f i)))
  if rs.isEmpty then .ok e.s
  else
    .ok (e.s.updCrew e.r.crew (fun c =>
      let d := (rs.foldl (fun d q => d.wrNat .dist num (q.1 * 32) 32 (elementNat q.2.1)) c).raise
        (orFlags (rs.map (fun q => q.2.2)))
      match tag with
      | some t => d.wtag num t
      | none => d))

/-- Element 0 of a value source in a lane, or the broadcast. -/
def value0 (e : Env) (o : FieldsR) (k : Nat) (field : BitVec 8) (i : Nat) : Nat := srcElem e.v o k field elem32 i 0

/-! ### Making elements (R279, R280) -/

/-- May a point be made of v and w (R280)? -/
def pointOk (v w : Nat) : Bool := !isNan32 v && weightOk w

/-- DPT. -/
def execDpt (o : FieldsR) (s : State) : Host.Outcome State Fault Refusal :=
  runWord (.dpt o) s (fun e => distOut e o.dst.toNat o.pred (some 0) (fun i =>
    let v := value0 e o 1 o.sa i
    let w := value0 e o 2 o.sb i
    if pointOk v w then some ([(v, w), (v, 0), (v, 0), (v, 0)], 0) else none))
/-- DSET. -/
def execDset (o : FieldsR) (s : State) : Host.Outcome State Fault Refusal :=
  runWord (.dset o) s (fun e => distOut e o.dst.toNat o.pred none (fun i =>
    let ps := e.v.points o.dst.toNat i
    let v := value0 e o 1 o.sa i
    let w := value0 e o 2 o.sb i
    checked [ps] (if pointOk v w then some (sortPoints (setAt ps (fld o.md 1 0) (v, w)), 0) else none)))

/-- The bytes of the active lanes of DLD and DST. -/
def distLanes (e : Env) (o : FieldsM) : List Nat := laneBytesOf 32 (maskLanes (activeMask e.v e.p.side.exm o.pred))

/-- DLD (R279): each loaded element is checked; no tag moves. -/
def execDld (o : FieldsM) (s : State) : Host.Outcome State Fault Refusal :=
  runWord (.dld o) s (fun e =>
    let a := addrA e.v o
    let ks := distLanes e o
    if ks.isEmpty then .ok e.s
    else if a.toNat % 4 ≠ 0 then .trap e.s (e.misaligned a)
    else e.access .load false (ks.map (fun k => (a.toNat + k) % 2 ^ 64)) (fun t ls =>
      let els := pieces 32 (ks.length / 32) (t.plainLoad e.c.core ls)
      let is := maskLanes (activeMask e.v e.p.side.exm o.pred)
      let rs := (is.zip els).map (fun q =>
        let ps := pointsOf (ofBytes q.2)
        (q.1, laneEnd (checked [ps] (some (ps, 0)))))
      .ok ((t.wakeErrors ls).updCrew e.r.crew (fun c =>
        (rs.foldl (fun d q => d.wrNat .dist o.dst.toNat (q.1 * 32) 32 (elementNat q.2.1)) c).raise
          (orFlags (rs.map (fun q => q.2.2)))))))
/-- DST stores the bytes as they stand (R279). -/
def execDst (o : FieldsM) (s : State) : Host.Outcome State Fault Refusal :=
  runWord (.dst o) s (fun e =>
    let a := addrA e.v o
    let ks := distLanes e o
    if ks.isEmpty then .ok e.s
    else if a.toNat % 4 ≠ 0 then .trap e.s (e.misaligned a)
    else e.access .store false (ks.map (fun k => (a.toNat + k) % 2 ^ 64)) (fun t ls =>
      .ok (t.plainStore e.c.core (ls.zip (ks.map (fun k => BitVec.ofNat 8 (e.v.rdNat .dist o.dst.toNat k 1)))))))

/-! ### Arithmetic (R281 to R285) -/

/-- The candidates of two elements under a pairing (R273, R274). -/
def pairUp (op : Nat → Nat → Flagged) (meets : Bool) (a b : List Point) : LaneRes :=
  if meets then
    gather ((a.zip b).map (fun q => candidate (op q.1.1 q.2.1)
      (wgt ((FVal.add 0 (fp32.decode q.1.2) (fp32.decode q.2.2)).1.scale (-1)))))
  else
    gather (a.flatMap (fun p => b.map (fun q => candidate (op p.1 q.1) (wgt (FVal.mul (fp32.decode p.2) (fp32.decode q.2)).1))))

/-- A binary instruction (R273): its tag is the union of its sources' tags. -/
def binaryDist (o : FieldsR) (op : Nat → Nat → Flagged) (e : Env) : Res :=
  let ta := e.v.tag o.sa.toNat
  let tb := e.v.tag o.sb.toNat
  distOut e o.dst.toNat o.pred (some (ta ||| tb)) (fun i =>
    let a := e.v.points o.sa.toNat i
    let b := e.v.points o.sb.toNat i
    checked [a, b] (condense (pairUp op (ta &&& tb != 0) a b)))

def execDadd (o : FieldsR) (s : State) : Host.Outcome State Fault Refusal :=
  runWord (.dadd o) s (binaryDist o (fun x y => dAddF (lit x) (lit y)))
def execDsub (o : FieldsR) (s : State) : Host.Outcome State Fault Refusal :=
  runWord (.dsub o) s (binaryDist o (fun x y => dSubF (lit x) (lit y)))
def execDmul (o : FieldsR) (s : State) : Host.Outcome State Fault Refusal :=
  runWord (.dmul o) s (binaryDist o (fun x y => dMulF (lit x) (lit y)))
def execDmax (o : FieldsR) (s : State) : Host.Outcome State Fault Refusal :=
  runWord (.dmax o) s (binaryDist o (fp32.minmax false))
def execDmin (o : FieldsR) (s : State) : Host.Outcome State Fault Refusal :=
  runWord (.dmin o) s (binaryDist o (fp32.minmax true))

/-- An instruction that maps each point's value and sorts (R282, R283): a NaN of zero weight becomes +0. -/
def mapValues (f : Nat → Flagged) (ps : List Point) : LaneRes :=
  (gather (ps.map (fun p =>
    let v := f p.1
    if isNan32 v.1 then (if noWeight p.2 then some ((0, 0), v.2) else none) else some ((v.1, p.2), v.2)))).map
    (fun q => (sortPoints q.1, q.2))

/-- DAFF: v × s + t with one rounding (R282). -/
def execDaff (o : FieldsR) (s : State) : Host.Outcome State Fault Refusal :=
  runWord (.daff o) s (fun e => distOut e o.dst.toNat o.pred (some (e.v.tag o.sa.toNat)) (fun i =>
    let ps := e.v.points o.sa.toNat i
    let x := value0 e o 2 o.sb i
    let t := value0 e o 3 o.sc i
    checked [ps] (if isNan32 x || isNan32 t then none
      else mapValues (fun v => fp32.finish 0 (FVal.fma 0 (fp32.decode v) (fp32.decode x) (fp32.decode t))) ps)))

/-- The functions of DFN (R283). -/
def distFn (k : Nat) (v : Nat) : Flagged :=
  let x := fp32.decode v
  if k = 0 then exp2F 0 x else if k = 1 then log2F 0 x else if k = 2 then sqrtF 0 x else rsqF 0 x

/-- DFN. -/
def execDfn (o : FieldsR) (s : State) : Host.Outcome State Fault Refusal :=
  runWord (.dfn o) s (fun e => distOut e o.dst.toNat o.pred (some (e.v.tag o.sa.toNat)) (fun i =>
    let ps := e.v.points o.sa.toNat i
    checked [ps] (mapValues (distFn (fld o.md 1 0)) ps)))

/-- Is a share or a probability outside 0 to 1, or a NaN (R284, R288)? -/
def notShare (p : Nat) : Bool :=
  isNan32 p || decide (FVal.cmp (fp32.decode p) (.fin false 0 0) < 0) ||
  decide (0 < FVal.cmp (fp32.decode p) (.fin false 1 0))

/-- DMIX (R284). -/
def mixPoints (a b : List Point) (p : Nat) : LaneRes :=
  if notShare p then none
  else
    let r := dSubF (lit 0x3F800000) (lit p)
    let side (ps : List Point) (x : Flagged) : List (Option (Point × Flags)) :=
      ps.map (fun q => candidate (lit q.1) (let w := wgt (FVal.mul (fp32.decode q.2) x.val).1; (w.1, w.2 ||| x.2)))
    condense (gather (side a (lit p) ++ side b r))

def execDmix (o : FieldsR) (s : State) : Host.Outcome State Fault Refusal :=
  runWord (.dmix o) s (fun e =>
    distOut e o.dst.toNat o.pred (some (e.v.tag o.sa.toNat ||| e.v.tag o.sb.toNat)) (fun i =>
      let a := e.v.points o.sa.toNat i
      let b := e.v.points o.sb.toNat i
      checked [a, b] (mixPoints a b (value0 e o 3 o.sc i))))

/-- DCOND (R285): the conditions are coded as those of CMP. -/
def execDcond (o : FieldsR) (s : State) : Host.Outcome State Fault Refusal :=
  runWord (.dcond o) s (fun e => distOut e o.dst.toNat o.pred (some (e.v.tag o.sa.toNat)) (fun i =>
    let ps := e.v.points o.sa.toNat i
    let x := value0 e o 2 o.sb i
    checked [ps] (if isNan32 x then none
      else some (ps.map (fun p =>
        (p.1, if intCond (fld o.md 2 0) (FVal.cmp (fp32.decode p.1) (fp32.decode x)) 0 then p.2 else 0)), 0))))

/-! ### Tags (R272, R286) -/

/-- The lowest set bit of a word, as a number; 32 when it is zero. -/
def lowestBit (x : BitVec 32) : Nat := ((List.range 32).find? (fun i => x.getLsbD i)).getD 32

/-- DTAG.new takes the lowest bit of TAGA of the live RCB (R272). -/
def execDtagNew (o : FieldsR) (s : State) : Host.Outcome State Fault Refusal :=
  runWord (.dtagNew o) s (fun e =>
    match e.s.region? e.c.region with
    | none => .stall
    | some g =>
      let b : BitVec 32 := if g.rcb.taga = 0 then 0 else BitVec.ofNat 32 (2 ^ lowestBit g.rcb.taga)
      let t := e.s.updRegion g.id (fun x => { x with rcb := { x.rcb with taga := x.rcb.taga &&& ~~~b } })
      .ok ((t.updCrew e.r.crew (fun c => c.wtag o.sa.toNat b)).ws e.r.crew o.dst.toNat
        (if b = 0 then 1 else BitVec.ofNat 64 (b.toNat * 2 ^ 32))))
/-- DTAG.set. -/
def execDtagSet (o : FieldsR) (s : State) : Host.Outcome State Fault Refusal :=
  runWord (.dtagSet o) s (fun e =>
    .ok (e.s.updCrew e.r.crew (fun c => c.wtag o.dst.toNat ((e.v.rs o.sa.toNat).setWidth 32))))
/-- DTAG.or. -/
def execDtagOr (o : FieldsR) (s : State) : Host.Outcome State Fault Refusal :=
  runWord (.dtagOr o) s (fun e =>
    .ok (e.s.updCrew e.r.crew (fun c =>
      c.wtag o.dst.toNat (e.v.tag o.dst.toNat ||| (e.v.rs o.sa.toNat).setWidth 32))))
/-- DTGRD. -/
def execDtgrd (o : FieldsR) (s : State) : Host.Outcome State Fault Refusal :=
  runWord (.dtgrd o) s (fun e => .ok (e.s.ws e.r.crew o.dst.toNat ((e.v.tag o.sa.toNat).setWidth 64)))

/-! ### Reading numbers out (R287 to R289) -/

/-- The points of non-zero weight, and their total weight with its flags. -/
def weighted (ps : List Point) : List Point := ps.filter (fun p => !noWeight p.2)
def totalWeight (ps : List Point) : Flagged := (weighted ps).foldl (fun w p => dAddF w (lit p.2)) (lit 0)

/-- A NaN result that raises nothing. -/
def quietNan : Flagged := lit fp32.nanBits
/-- The results of a failed reader: NaNs with NV. -/
def failedReads (n : Nat) : List Flagged := List.replicate n (fp32.nanBits, flagNV)

/-- A central moment: the sum over the points of round(w × f(d)), divided by W. -/
def moment (ps : List Point) (mu w : Flagged) (f : Flagged → Flagged) : Flagged :=
  dDivF ((weighted ps).foldl (fun c p => dAddF c (dMulF (lit p.2) (f (dSubF (lit p.1) mu)))) (lit 0)) w

/-- DMOM's five results (R287). -/
def moments (ps : List Point) : List Flagged :=
  let w := totalWeight ps
  if noWeight w.1 then [lit 0, quietNan, quietNan, quietNan, quietNan]
  else
    let mu := dDivF ((weighted ps).foldl (fun m p => dAddF m (dMulF (lit p.2) (lit p.1))) (lit 0)) w
    let sq (d : Flagged) : Flagged := dMulF d d
    [w, mu, moment ps mu w sq, moment ps mu w (fun d => dMulF (sq d) d), moment ps mu w (fun d => dMulF (sq d) (sq d))]

/-- The point at which the cumulative weight reaches t (R288). -/
def quantileFrom (t : Flagged) : Flagged → List Point → Flagged
  | c, [] => (fp32.nanBits, c.2)
  | c, p :: r =>
    let d := dAddF c (lit p.2)
    if 0 ≤ FVal.cmp d.val t.val ∨ r = [] then (p.1, d.2 ||| t.2) else quantileFrom t d r

/-- DQNT's result. An overflowing total is compared as R80 compares. A product that is a NaN, of p = 0 and an infinite total, gives
the lowest value of non-zero weight, as R288 has it for p = 0. -/
def quantile (ps : List Point) (p : Nat) : Flagged :=
  if notShare p then (fp32.nanBits, flagNV)
  else
    let w := totalWeight ps
    if noWeight w.1 then quietNan
    else
      let t := dMulF (lit p) w
      let q := quantileFrom t (lit 0) (weighted ps)
      if t.val.isNan then (((weighted ps).headD (0, 0)).1, t.2 ||| w.2) else (q.1, q.2 ||| w.2)

/-- DCDF's result (R289). -/
def cdfAt (ps : List Point) (x : Nat) : Flagged :=
  if isNan32 x then (fp32.nanBits, flagNV)
  else
    let w := totalWeight ps
    if noWeight w.1 then quietNan
    else
      let below := (weighted ps).filter (fun p => decide (FVal.cmp (fp32.decode p.1) (fp32.decode x) ≤ 0))
      dDivF (below.foldl (fun c p => dAddF c (lit p.2)) (lit 0)) w

/-- Write the results of a reader to consecutive vectors in the active lanes. -/
def readOut (e : Env) (num : Nat) (pred : BitVec 3) (f : Nat → List Flagged) : Res :=
  let rs := (maskLanes (activeMask e.v e.p.side.exm pred)).map (fun i => (i, f i))
  .ok (e.s.updCrew e.r.crew (fun c =>
    (rs.foldl (fun d q => q.2.zipIdx.foldl (fun d x => d.wrElem .vec (num + x.2) q.1 4 0 x.1.1) d) c).raise
      (orFlags (rs.flatMap (fun q => q.2.map (fun x => x.2))))))

/-- A reader of one element: a source that is not well-formed gives NaNs with NV (R269, R270). -/
def readElement (e : Env) (o : FieldsR) (n : Nat) (f : List Point → Nat → List Flagged) : Res :=
  readOut e o.dst.toNat o.pred (fun i =>
    let ps := e.v.points o.sa.toNat i
    if wellFormed ps then f ps i else failedReads n)

/-- DMOM. -/
def execDmom (o : FieldsR) (s : State) : Host.Outcome State Fault Refusal :=
  runWord (.dmom o) s (fun e => readElement e o 5 (fun ps _ => moments ps))
/-- DQNT. -/
def execDqnt (o : FieldsR) (s : State) : Host.Outcome State Fault Refusal :=
  runWord (.dqnt o) s (fun e => readElement e o 1 (fun ps i => [quantile ps (value0 e o 2 o.sb i)]))
/-- DCDF. -/
def execDcdf (o : FieldsR) (s : State) : Host.Outcome State Fault Refusal :=
  runWord (.dcdf o) s (fun e => readElement e o 1 (fun ps i => [cdfAt ps (value0 e o 2 o.sb i)]))

end Sys2Proof.Machine
end

