-- ==== Sys2Proof/Machine/Queues.lean ====
section
/-! DEFINITION. The services of SYSC (R358, R380), the launch queues and their packets (R21 to R24, R370 to R375), with the
packets of a reel and a take (R382). -/

namespace Sys2Proof.Machine

/-! ### Attestation (R380) -/

/-- Bytes 0x000 to 0x0EF of the report, which the signature covers. -/
def attestHead (s : State) (nonce : List Byte) : List Byte :=
  (nonce ++ List.replicate 64 0).take 64 ++ toBytes 64 Config.romHash.toNat ++ toBytes 64 s.boot.hash.toNat ++
  wordBytes [s.boot.number.toNat, s.bootStat, s.power.fuse.word, s.slate.toNat] ++ toBytes 16 Config.serialNumber.toNat

/-- The attestation report: 384 bytes. -/
def attestation (s : State) (nonce : List Byte) : List Byte :=
  let h := attestHead s nonce
  h ++ (Config.identitySign (toBytes 64 (Config.sha512 h).toNat) ++ List.replicate 132 0).take 132 ++ List.replicate 12 0

/-! ### SYSC (R358) -/

/-- A path waits for the reply of the firmware complex. -/
def sysc (svc : Nat) (o : FieldsS) (e : Env) : Res :=
  .wait e.s (.sysc svc o.dst.toNat (e.v.rs o.ss.toNat) o.imm.toNat e.s.now)

/-- SYSC NOTIFY, and a service number that no service has, which is UNKNOWN. -/
def execSyscNotify (o : FieldsS) (s : State) : Host.Outcome State Fault Refusal :=
  runWord (.syscNotify o) s (sysc o.sys.toNat o)
/-- SYSC FREC. -/
def execSyscFrec (o : FieldsS) (s : State) : Host.Outcome State Fault Refusal := runWord (.syscFrec o) s (sysc 1 o)
/-- SYSC BREC. -/
def execSyscBrec (o : FieldsS) (s : State) : Host.Outcome State Fault Refusal := runWord (.syscBrec o) s (sysc 2 o)
/-- SYSC ATTEST. -/
def execSyscAttest (o : FieldsS) (s : State) : Host.Outcome State Fault Refusal := runWord (.syscAttest o) s (sysc 3 o)

/-- A write of the firmware in a region's address space, or the fault that it meets. -/
def State.serviceWrite (s0 : State) (region va : Nat) (b : List Byte) : Except MemFault State :=
  let s := s0.openFor noCore region .store (span va b.length)
  match s.locs noCore region .store false (span va b.length) with
  | .error f => .error f
  | .ok ls => .ok ((s.directStore noCore (ls.zip b)).agentTouch ls)

/-- What a fault of the firmware's access makes of a service: one that can be replayed, a page of the host's among them, is waited
for (R217); any other is status FAULT (R358). -/
def MemFault.status (f : MemFault) : Option Nat := if f.replayable then none else some 3

/-- The record of a faulted batch by its number (R358): that of its most recent sealing. -/
def Crew.batchRecord (c : Crew) (n : Nat) : Option FaultRec :=
  match c.batches.last with
  | none => none
  | some l =>
    (c.batches.recs.find? (fun q => batchNo q.1 == n && decide (q.1 ≤ l) && decide (l < q.1 + 127))).map (fun q => q.2)

/-- Write a record: NONE when there is none. -/
def State.writeRecord (s : State) (region va : Nat) : Option FaultRec → State × Option Nat
  | none => (s, some 2)
  | some q =>
    match s.serviceWrite region va (wordBytes (q.words 0)) with
    | .error f => (s, f.status)
    | .ok t => (t, some 0)

/-- A service and its status (R358), or none while firmware waits for a page to be replayed (R217). An address that is not aligned
gives FAULT before anything else is looked at. DESIGN CHOICE (log 38). -/
def State.service (s : State) (c : Crew) (svc : Nat) (arg : Word) (imm : Nat) : State × Option Nat :=
  if svc = 0 then
    (s.postWords [s.slate.toNat, imm, arg.toNat, 0, 0, (Config.rcbAddress c.region).toNat] 6,
      some (if s.events.drops then 1 else 0))
  else if 4 ≤ svc then (s, some 4)
  else if arg.toNat % 64 ≠ 0 then (s, some 3)
  else if svc = 1 then s.writeRecord c.region arg.toNat c.lastRec
  else if svc = 2 then s.writeRecord c.region arg.toNat (c.batchRecord (imm % 128))
  else
    match s.gRead noCore c.region arg.toNat 64 with
    | .error f => (s, f.status)
    | .ok nonce =>
      match (s.gTouch noCore c.region arg.toNat 64).serviceWrite c.region (arg.toNat + 64) (attestation s nonce) with
      | .error f => (s, f.status)
      | .ok t => (t, some 0)

/-- Ticks within which SYSC is answered (R358). -/
def syscBound : Nat := 100000

/-- The reply of a service: where the page it waits for has not come back when the time of the reply has, FAULT. DESIGN CHOICE
(log 38). -/
def State.serviceReply (s : State) (c : Crew) (svc : Nat) (arg : Word) (imm since : Nat) : Option (State × Nat) :=
  match s.service c svc arg imm with
  | (t, some st) => some (t, st)
  | (_, none) => if since + syscBound ≤ s.now then some (s, 3) else none

/-- SYSC_REPLY (R358): the status, an acquire at package scope, and the path goes on. -/
def execSyscReply (r : PathRef) (s : State) : Host.Outcome State Fault Refusal :=
  .next (match s.crew? r.crew with
    | none => s
    | some c =>
      match c.path? r.sel with
      | none => s
      | some p =>
        match p.wait with
        | .sysc svc dst arg imm since =>
          match s.serviceReply c svc arg imm since with
          | some q => ((q.1.refresh c.core).setOwn r dst (BitVec.ofNat 64 q.2)).advance r
          | none => s
        | _ => s)

/-! ### Launch queues (R22, R370, R371, R379) -/

/-- Does a queue belong to a die in service (R379)? Recovery mode, in which every queue reads EN as 0, is taken to ignore writes of
their blocks as minimal mode does. DESIGN CHOICE (log 150). -/
def State.queueOn (s : State) (k : Nat) : Bool := decide (k < 64) && (s.mode == .full || (s.mode == .minimal && decide (k < 16)))

/-- WAKE_STORE (R21, R22, R371, R379). -/
def execWakeStore (queue size : Nat) (aligned : Bool) (value : Word) (s : State) : Host.Outcome State Fault Refusal :=
  .next (
    let q := s.queue queue
    if 64 ≤ queue then s
    else if size ≠ 8 ∨ !aligned ∨ (s.mode = .minimal ∧ !s.queueOn queue) then
      s.updQueue queue (fun x => { x with werr := true })
    else if !s.queueOn queue ∨ !q.en ∨ q.halt ∨ value.toNat ≤ q.wr.toNat then s
    else if q.rd.toNat + 2 ^ q.log2 < value.toNat then s.halt queue 2
    else s.updQueue queue (fun x => { x with wr := value }))

/-- LAUNCH_QUEUE_RESET (R370). -/
def execLaunchQueueReset (queue : Nat) (s : State) : Host.Outcome State Fault Refusal :=
  .next (if s.queueOn queue then
      s.updQueue queue (fun q => { q with rd := q.wr, halt := false, err := 0, phaseDone := false })
    else s)

/-- LAUNCH_QUEUE_CONTROL_WRITE (R370): LOG2 is kept while EN is 1 and outside 1 to 20. -/
def execLaunchQueueControlWrite (queue : Nat) (value : Word) (s : State) : Host.Outcome State Fault Refusal :=
  .next (if s.queueOn queue then
      let n := bits value.toNat 4 0
      s.updQueue queue (fun q =>
        { q with en := bit value.toNat 63, log2 := if q.en ∨ n < 1 ∨ 20 < n then q.log2 else n })
    else s)

/-! ### Packets (R372, R373) -/

/-- A packet as the front end reads it: header, units, all bytes, the address of unit 0, and a LAUNCH's template. -/
structure QPacket where
  hd : List Byte
  n : Nat
  bytes : List Byte
  base : Nat
  tmpl : List Byte
  deriving DecidableEq, Repr

def QPacket.ty (p : QPacket) : Nat := bits (word8 p.hd 0) 63 56
def QPacket.phase (p : QPacket) : Nat := bits (word8 p.hd 0) 31 0
def QPacket.op (p : QPacket) : Nat := bits (word8 p.hd 8) 7 0
def QPacket.arg (p : QPacket) : Word := BitVec.ofNat 64 (word8 p.hd 0x10)
def QPacket.tag (p : QPacket) : Word := BitVec.ofNat 64 (word8 p.hd 0x18)

/-- A read of the front end for a queue: a fatal fault gives the error code; a replayable one waits, or, unresolved after
its time, gives the code too (R364, R373). -/
def State.queueRead (s : State) (va n err : Nat) : Except (Option Nat) (List Byte) :=
  match s.gRead noCore 0 va n with
  | .ok b => .ok b
  | .error f => .error (if f.replayable && (Config.freeChoice s.free).testBit 0 then none else some err)

/-- The header's checks in their order (R373): 3, 4, 2, 1. -/
def headerError (hd : List Byte) (rd size : Nat) : Option Nat :=
  let w := word8 hd 0
  let ty := bits w 63 56
  let n := bits w 55 52 + 1
  let op := bits (word8 hd 8) 7 0
  if ty ≠ 0 ∧ (3 < ty ∨ bits w 51 32 ≠ 0 ∨ ofBytes (hd.drop 0x20) ≠ 0 ∨ (ty = 2 ∧ word8 hd 8 ≠ op)) then some 3
  else if (ty = 2 ∧ n ≠ (if op = 5 then 2 else 1)) ∨ (ty = 3 ∧ n ≠ 1) then some 4
  else if size < n then some 2
  else if size < rd % size + n then some 1
  else none

/-- The checks of a packet that WR covers (R373): its later units, a LAUNCH's template, a CONTROL's OP. -/
def State.coveredPacket (s : State) (hd : List Byte) (base : Nat) : Except (Option Nat) QPacket :=
  let n := bits (word8 hd 0) 55 52 + 1
  let ty := bits (word8 hd 0) 63 56
  let op := bits (word8 hd 8) 7 0
  let tm := word8 hd 8
  match (if ty = 0 then .ok [] else s.queueRead (base + 64) (64 * (n - 1)) 7) with
  | .error e => .error e
  | .ok more =>
    if ty = 1 ∧ tm % 64 ≠ 0 then .error (some 5)
    else
      match (if ty = 1 then s.queueRead tm 256 5 else .ok []) with
      | .error e => .error e
      | .ok t =>
        if ty = 2 ∧ (op = 0 ∨ 5 < op) then .error (some 6)
        else .ok { hd := hd, n := n, bytes := hd ++ more, base := base, tmpl := t }

/-- The packet at RD of a queue, ready to be processed: an error halts the queue, none is nothing to do yet. -/
def State.ringPacket (s : State) (k : Nat) : Except (Option Nat) QPacket :=
  let q := s.queue k
  let size := 2 ^ q.log2
  let base := q.rbase.toNat + 64 * (q.rd.toNat % size)
  if !q.en ∨ q.wr.toNat ≤ q.rd.toNat then .error none
  else
    match s.queueRead base 64 7 with
    | .error e => .error e
    | .ok hd =>
      match headerError hd q.rd.toNat size with
      | some e => .error (some e)
      | none =>
        if q.wr.toNat < q.rd.toNat + (bits (word8 hd 0) 55 52 + 1) then .error none else s.coveredPacket hd base

/-- The next packet of a take, when it is this queue's (R382). -/
def State.takePacket (s : State) (k pos : Nat) : Except (Option Nat) QPacket :=
  match s.dbg.packets[pos]? with
  | none => .error none
  | some p => if p.queue = k then s.coveredPacket (p.units.headD []) p.base.toNat else .error none

/-- A take puts a packet's units back where they were before it is submitted again: the write, if there is one to make. -/
def State.unitsBack (s : State) : Option (Except MemFault State) :=
  if !s.dbg.restore.isEmpty then none
  else (s.dbg.takePos.bind (fun k => s.dbg.packets[k]?)).map (fun p => s.serviceWrite 0 p.base.toNat p.units.flatten)

/-- Does a take wait for the page of a packet's units, which is to be replayed (R217)? DESIGN CHOICE for how long (log 49). -/
def State.takeHeld (s : State) : Bool :=
  match s.unitsBack with
  | some (.error f) => f.replayable
  | _ => false

/-- A take whose snapshot is restored has put a packet's units back. -/
def State.resubmit (s : State) : State :=
  match s.unitsBack with
  | some (.ok t) => t
  | _ => s

/-- The packet that a queue's front end is to process; while a take runs it comes from the reel. A halted queue, a queue
of a die out of service, and a paused Lantern pair process none (R376, R379), nor does a take that is still restoring its
snapshot, or the units of the packet (R382). -/
def State.packet (s : State) (k : Nat) : Except (Option Nat) QPacket :=
  if !s.queueOn k || (s.queue k).halt || decide (s.now < s.firm.pausedUntil) || !s.dbg.restore.isEmpty || s.takeHeld then .error none
  else match s.dbg.takePos with
    | some pos => s.takePacket k pos
    | none => s.ringPacket k

/-- A packet is recorded while capture runs; a full area stops it (R382). -/
def State.recordPacket (s : State) (k : Nat) (p : QPacket) : State :=
  if !s.dbg.active then s
  else
    let us := (List.range p.n).map (fun i => (p.bytes.drop (64 * i)).take 64)
    match s.reelPut us.flatten with
    | none => s.reelFull
    | some t =>
      { t with dbg := { t.dbg with
          packets := t.dbg.packets ++ [{ queue := k, slate := s.slate, base := BitVec.ofNat 64 p.base, units := us,
                                         tag := p.tag, sum := none }]
          pkts := t.dbg.pkts + 1 } }

/-- RD passes a packet, or a take goes on to its next one. -/
def State.consume (s : State) (k n : Nat) : State :=
  match s.dbg.takePos with
  | some pos => { s with dbg := { s.dbg with takePos := some (pos + 1) } }
  | none => s.updQueue k (fun q => { q with rd := q.rd + BitVec.ofNat 64 n })

/-- The reads of a packet that meet wake registers set their WERR (R371). -/
def State.packetTouch (s : State) (p : QPacket) : State :=
  let t := s.gTouch noCore 0 p.base (64 * p.n)
  if p.ty = 1 then t.gTouch noCore 0 (word8 p.hd 8) 256 else t

/-- Process the packet of a queue when it is of the kind at hand (R373); none means that it must wait. -/
def State.onPacket (s : State) (k : Nat) (want : QPacket → Bool) (act : QPacket → State → Option State) : State :=
  match s.resubmit.packet k with
  | .error none => s
  | .error (some e) => s.halt k e
  | .ok p =>
    if !want p then s
    else match act p ((s.resubmit.packetTouch p).recordPacket k p) with
      | none => s
      | some t => t.consume k p.n

/-! ### LAUNCH and the change of phase (R24, R374, R382) -/

/-- Do the regions run one at a time: for a reel or a take (R382)? -/
def State.oneByOne (s : State) : Bool := s.dbg.reel || s.dbg.take

/-- May a LAUNCH start now (R374, R382)? For a reel or a take it starts at a change of phase of its own, with no region left. -/
def State.mayLaunch (s : State) (k : Nat) (p : QPacket) : Bool :=
  if s.oneByOne then (s.queue k).phaseDone && s.regions.all (fun g => !g.open_)
  else (s.queue k).phaseDone || (s.queue k).phase == p.phase

/-- Have the regions ended that a change of phase waits for: those of the queue under other phase numbers, or all when
regions run one at a time? -/
def State.phaseEnded (s : State) (k : Nat) (p : QPacket) : Bool :=
  s.regions.all (fun g => !g.open_ || (!s.oneByOne && !(g.queue == some k && g.phase != p.phase)))

/-- The number in the reel of the packet being launched: the last one recorded, or the one that a take submits (R382). -/
def State.reelIndex (s : State) : Option Nat :=
  match s.dbg.takePos with
  | some k => some k
  | none => if s.dbg.active then some (s.dbg.packets.length - 1) else none

/-- The boundary that a launch used: for a reel or a take no queue keeps one (R382). -/
def State.usedPhase (s : State) (k phase : Nat) : State :=
  let t : State := if s.oneByOne then { s with queues := s.queues.map (fun q => { q with phaseDone := false }) } else s
  t.updQueue k (fun q => { q with phase := phase, phaseDone := false })

/-- Instantiate the root region of a LAUNCH packet (R18, R19, R24, R372). -/
def State.launchRoot (s : State) (k : Nat) (p : QPacket) : State :=
  let t0 := resolveRcb (parseRcb p.tmpl) none
  let karg := if 1 < p.n then BitVec.ofNat 64 (p.base + 64) else if p.arg ≠ 0 then p.arg else t0.karg
  let t := { t0 with karg := karg }
  let die := k / 16
  let g := { newRegion s.nextId t none none die with queue := some k, phase := p.phase, tag := p.tag,
                                                     reel := s.reelIndex }
  let u := s.usedPhase k p.phase
  match s.refusal t with
  | some err => u.refuse g err
  | none =>
    let q : Request := { die := die, region := g.id, entry := t.entry, arg := 0, seed := true, spawner := none,
                         since := s.stamp }
    { u with regions := u.regions ++ [{ g with seed := some q }], nextId := s.nextId + 1, stamp := s.stamp + 1 }

/-- LAUNCH (R24). -/
def execLaunch (queue : Nat) (s : State) : Host.Outcome State Fault Refusal :=
  .next (s.onPacket queue (fun p => p.ty == 1 && s.mayLaunch queue p) (fun p t => some (t.launchRoot queue p)))

/-- PHASE_CHANGE (R374, R382): once the earlier regions have ended, every core publishes and refreshes. -/
def execPhaseChange (queue : Nat) (s : State) : Host.Outcome State Fault Refusal :=
  .next (match s.packet queue with
    | .ok p =>
      if p.ty = 1 ∧ !s.mayLaunch queue p ∧ s.phaseEnded queue p then
        s.boundaryAll.updQueue queue (fun q => { q with phaseDone := true })
      else s
    | .error _ => s)

/-- PAD (R372). -/
def execPad (queue : Nat) (s : State) : Host.Outcome State Fault Refusal :=
  .next (s.onPacket queue (fun p => p.ty == 0) (fun _ t => some t))

/-! ### CONTROL and RESREQ (R372, R375) -/

/-- The root regions of a queue with a tag. -/
def State.rootsOf (s : State) (k : Nat) (tag : Word) : List Region :=
  s.regions.filter (fun g => g.parent.isNone && g.queue == some k && g.tag == tag && g.live)

/-- A region runs again (R20, R353): its saved crews become ready for restore, those not yet saved run on. -/
def State.resume (s : State) (id : Nat) : State :=
  match s.region? id with
  | none => s
  | some g =>
    if g.state ≠ .suspended then s
    else
      let t := s.updRegion id (fun x => { x with state := .running, trapped := false })
      let u : State := { t with
        stamp := t.stamp + 1
        crews := t.crews.map (fun c =>
          if c.region = id then
            { (c.mapPaths (fun p => if p.wait = .stopped then { p with wait := .none } else p)) with
              state := if c.state = .saving .suspend then .resident else c.state
              since := if c.state = .saved .suspend then t.stamp else c.since }
          else c) }
      u.cntCheck id

/-- CONTROL OP 1. -/
def execControlSuspend (queue : Nat) (s : State) : Host.Outcome State Fault Refusal :=
  .next (s.onPacket queue (fun p => p.ty == 2 && p.op == 1)
    (fun p t => some (t.suspend ((t.rootsOf queue p.arg).map (fun g => g.id)))))
/-- CONTROL OP 2: the regions of each fault domain resume with their root (R353). -/
def execControlResume (queue : Nat) (s : State) : Host.Outcome State Fault Refusal :=
  .next (s.onPacket queue (fun p => p.ty == 2 && p.op == 2)
    (fun p t => some (((t.rootsOf queue p.arg).flatMap t.domain).foldl (fun u id => u.resume id) t)))
/-- CONTROL OP 3: END 2 and ERR 0. -/
def execControlTerminate (queue : Nat) (s : State) : Host.Outcome State Fault Refusal :=
  .next (s.onPacket queue (fun p => p.ty == 2 && p.op == 3)
    (fun p t => some (t.terminate ((t.rootsOf queue p.arg).map (fun g => g.id)) 0)))
/-- CONTROL OP 4. -/
def execControlClearBootfail (queue : Nat) (s : State) : Host.Outcome State Fault Refusal :=
  .next (s.onPacket queue (fun p => p.ty == 2 && p.op == 4)
    (fun _ t => some { t with flash := { t.flash with bootfail := 0 } }))

/-- A report written to ARG as a release at system scope (R375), to a page of the device's (R217): a replayable fault waits or
fails; one that cannot be written is dropped. DESIGN CHOICE (log 39). ARG is taken as it stands, aligned or not. DESIGN CHOICE (log
148). -/
def State.report (s0 : State) (va : Nat) (b : List Byte) : Option State :=
  let s := s0.openFor noCore 0 .store (span va b.length)
  match s.locs noCore 0 .store false (span va b.length) with
  | .ok ls => some ((s.gWrite (memPart (ls.zip b))).agentTouch ls)
  | .error f => if f.replayable && (Config.freeChoice s.free).testBit 0 then none else some s

/-- CONTROL OP 5: the attestation report for the nonce of unit 1. -/
def execControlAttest (queue : Nat) (s : State) : Host.Outcome State Fault Refusal :=
  .next (s.onPacket queue (fun p => p.ty == 2 && p.op == 5)
    (fun p t => t.report p.arg.toNat (attestation t (p.bytes.drop 64))))
/-- RESREQ (R375). -/
def execResreq (queue : Nat) (s : State) : Host.Outcome State Fault Refusal :=
  .next (s.onPacket queue (fun p => p.ty == 3) (fun p t => t.report p.arg.toNat (t.residency p.tag)))

end Sys2Proof.Machine
end

