-- ==== Sys2Proof/Machine/Firm.lean ====
section
/-! DEFINITION. What firmware, host and supply do: the resolution of faults (R27, R215, R311, R364), ownership of pages (R217,
R218), host accesses (R365), TLB invalidation (R363), the registers of firmware space (R366, R367), debug, reel and take
(R381, R382), and boot (R377 to R379). -/

namespace Sys2Proof.Machine

/-- Does an invalidation cover a page (R363)? -/
def covered (v : Nat) (vpn : Nat) : Bool :=
  let n := if bits v 2 1 = 0 then 1 else if bits v 2 1 = 1 then 16 else if bits v 2 1 = 2 then 512 else 262144
  bit v 0 || decide (bits v 56 12 / n = vpn / n)

/-- Does a lossy transfer keep the translation of a page that f names (R312)? -/
def State.pagesKept (s : State) (f : Nat → Bool) : Bool := s.fab.incoming.any (fun x => x.pages.any (fun q => f q.1))

/-- Does a lossy transfer keep a page of an area of physical memory, which it writes without another translation (R312)? -/
def State.keepsPage (s : State) (pa size : Nat) : Bool :=
  s.fab.incoming.any (fun x => x.pages.any (fun q => decide (pa ≤ q.2) && decide (q.2 < pa + size)))

/-- A WAITC whose word lies in a page that f names translates its address again, and reads the word there (R218, R363). -/
def State.rewait (s : State) (f : Nat → Bool) : State :=
  (s.allPaths.foldl (fun t q =>
    match q.2.wait, t.crew? q.1.crew with
    | .waitc reg va (.mem _) target timeout t0 none, some c =>
      if !f (va / 4096) then t
      else
        match t.locs c.core c.region .load false (span va 8) with
        | .error e => t.pathFault q.1 e
        | .ok ls =>
          let l := ls.headD (.wake 0 0)
          let w := t.counterAt c.core l
          t.updPath q.1 (fun p =>
            { p with wait := .waitc reg va l target timeout t0 (if counterMeets w target then some (BitVec.ofNat 64 w) else none) })
    | _, _ => t) s).postWaitc

/-- No word waits on an old translation of a page that f names, and no TLB holds one, any more. -/
def State.invalidate (s : State) (f : Nat → Bool) : State := (s.tlbDrop f).rewait f

/-- TLBINV (R363, R366): the invalidation stands until it completes; an earlier one that stands reaches the TLBs first. -/
def execTlbinv (value : Word) (s : State) : Host.Outcome State Fault Refusal :=
  let t := match s.firm.tlbinv with
    | some v => s.invalidate (covered v.toNat)
    | none => s
  .next { t with firm := { t.firm with tlbinv := some value } }

/-- TLBINV_COMPLETE (R363): no TLB holds a covered translation, and no access uses one. A lossy transfer, whose translated
pages stay resident until it completes (R312), is such an access. DEDUCED (log 113). -/
def execTlbinvComplete (s : State) : Host.Outcome State Fault Refusal :=
  .next (match s.firm.tlbinv with
    | none => s
    | some v =>
      if s.pagesKept (covered v.toNat) then s
      else let t := s.invalidate (covered v.toNat); { t with firm := { t.firm with tlbinv := none } })

/-! ### Ownership (R217, R218) -/

/-- Change the owner of leaves that go together; no TLB keeps an old entry, and an access that comes after it meets the new owner
(R218). Those of a CONT group stay alike (R362). -/
def State.setOwner (s : State) (va : Nat) (ls : List (Nat × Nat × Nat × Nat)) (host : Bool) : State :=
  let n := (ls.map (fun l => l.2.2.2 / 4096)).sum
  (ls.foldl (fun t l => t.setEntry l.1 (withBit (t.entry l.1) 59 host)) s).invalidate (fun vpn => vpn / n == va / 4096 / n)

/-- Does one of some leaves map a physical address? -/
def leavesMap (ls : List (Nat × Nat × Nat × Nat)) (x : Nat) : Bool :=
  ls.any (fun l => decide (l.2.2.1 ≤ x) && decide (x < l.2.2.1 + l.2.2.2))

/-- OWNERSHIP_TO_HOST (R218): every access in flight to the page completes first, that of a lossy transfer with the transfer, whose
pages stay resident until then (R312); then each core publishes its dirty bytes of the page and drops them, and the owner bit
changes. The 16 pages of a CONT group change together. DEDUCED (log 138). -/
def execOwnershipToHost (va : Word) (s : State) : Host.Outcome State Fault Refusal :=
  let ls := s.groupOf va.toNat
  .next (match s.leafPage va.toNat with
    | none => s
    | some (_, e, _, _) =>
      if bit e 59 || ls.any (fun l => s.keepsPage l.2.2.1 l.2.2.2) then s
      else
        ((List.range s.cores.length).foldl (fun t k => t.syncOut k ((t.core k).dirty.filter (leavesMap ls))) s).setOwner
          va.toNat ls true)

/-- Bytes that an image or G lists, among those that f names. -/
def listedIn (m : Memory) (f : Nat → Bool) : List Nat := (m.map (fun c => c.1)).filter f

/-- Restore a page of the snapshot. -/
def State.restorePage (s : State) (q : Nat × List Host.Cell) : State :=
  let pas := (listedIn s.g (fun x => x / 4096 == q.1) ++ q.2.map (fun c => c.1)).dedup
  s.gWrite (pas.map (fun a => (a, Memory.read q.2 a)))

/-- A take restores the pages of the snapshot that are still to be restored and that the device owns; one that the host owns is a
migration fault, and waits until the device has it back (R217, R382). -/
def State.takeOn (s : State) : State :=
  let mine := s.dbg.pages.filter (fun q => s.dbg.restore.contains q.1 && !s.hostOwns (q.1 * 4096))
  let t := mine.foldl (fun u q => u.restorePage q) s
  { t with dbg := { t.dbg with restore := s.dbg.restore.filter (fun p => s.hostOwns (p * 4096)) } }

/-- OWNERSHIP_TO_DEVICE (R218): every core's image of the page is refreshed from G; then the owner bit changes. -/
def execOwnershipToDevice (va : Word) (s : State) : Host.Outcome State Fault Refusal :=
  let ls := s.groupOf va.toNat
  .next (match s.leafPage va.toNat with
    | none => s
    | some (_, e, _, _) =>
      if !bit e 59 then s
      else
        (((List.range s.cores.length).foldl (fun t k =>
          let c := t.core k
          t.syncIn k ((listedIn c.img (leavesMap ls) ++ listedIn t.g (leavesMap ls)).filter (fun x => !c.dirty.contains x))) s).setOwner
            va.toNat ls false).takeOn)

/-- May the host reach a byte: no leaf that the device owns maps it (R217, R365)? Memory that no leaf maps has no owner bit; the
host may reach it. DESIGN CHOICE (log 126). -/
def State.hostMay (s : State) (pa : Nat) : Bool :=
  (leavesOf s.g 5 s.rootTable).all (fun q =>
    let e := s.entry q.1
    bit e 59 || decide (pa < entryPA e) || decide (entryPA e + leafSize q.2 ≤ pa))

/-- HOST_CXL_ACCESS (R217, R365): of memory that the device does not own; any other faults on the host's side. Firmware
space is no memory. -/
def execHostCxlAccess (pa : Nat) (store : Bool) (data : List Byte) (s : State) : Host.Outcome State Fault Refusal :=
  .next (if !store then s
    else if (List.range data.length).all (fun i =>
        decide (pa + i < firmwareBase) && s.hostMay (pa + i)) then
      (s.gWriteAt pa data).servedRows (span pa data.length)
    else s)

/-! ### Faults that firmware resolves (R364) -/

/-- The fault that a hold stands for. -/
def State.heldFault (s : State) : HoldRef → Option (MemFault × Nat)
  | .path r =>
    match s.path? r with
    | none => none
    | some p => match p.wait with | .fault f t => some (f, t) | _ => none
  | .copy id =>
    match s.copy? id with
    | none => none
    | some c => match c.state with | .held f t => some (f, t) | _ => none
  | .store g =>
    match (s.region? g).bind (fun x => x.ending) with
    | some e => e.fault.map (fun f => (f, e.since))
    | none => none
  | .incoming id => (s.incoming? id).bind (fun x => x.hold)

/-- A transfer that was held goes on: blocks of a lossy one that are there and not written come again (R217, R312). -/
def State.replayIncoming (s : State) (id : Nat) : State :=
  let t := s.updIncoming id (fun x => { x with hold := none })
  match t.incoming? id with
  | some x => if x.hdr.cls = .lossy then x.waiting.foldl (fun u q => u.post (.lossyBlock id q.1 q.2)) t else t
  | none => t

/-- What was held is tried again: the word at no cost, the copy, the front end's store, the transfer (R27, R215, R217, R364). -/
def State.replay (s : State) : HoldRef → State
  | .path r => s.updPath r (fun p => { p with wait := .none })
  | .copy id => s.updCopy id (fun c => { c with state := .active })
  | .store g =>
    match s.region? g with
    | some x => (s.setEnding g (x.ending.map (fun e => { e with fault := none }))).complete g
    | none => s
  | .incoming id => s.replayIncoming id

/-- FAULT_RESOLVED (R364, R382). -/
def execFaultResolved (h : HoldRef) (s : State) : Host.Outcome State Fault Refusal :=
  .next (match s.heldFault h with
    | none => s
    | some q => (if s.guardFault q.1 then s.reelFault q.1.va.toNat else s).replay h)

/-- A fault that is not resolved reaches its holder (R27, R215, R311, R364). -/
def State.giveUp (s : State) (h : HoldRef) (f : MemFault) : State :=
  match h with
  | .path r =>
    match s.path? r with
    | none => s
    | some p =>
      let t := s.updPath r (fun x => { x with wait := .none })
      t.takeTrap r (p.faultTrap s.slate f)
  | .copy id =>
    match s.copy? id with
    | some c => s.copyFail c f
    | none => s
  | .store g =>
    match s.region? g with
    | none => s
    | some x =>
      match x.ending with
      | none => s
      | some e =>
        ((s.endStoreEvent x (x.endTarget e).1 (x.endTarget e).2 f.cls f.cause).setEnding g
          (some { e with step := e.step.succ, fault := none })).complete g
  | .incoming id =>
    match s.incoming? id with
    | some x => s.incomingFail x.hdr 1 f.va
    | none => s

/-- REPLAY_TIMEOUT (R364): 1,000,000 slate ticks have passed. -/
def execReplayTimeout (h : HoldRef) (s : State) : Host.Outcome State Fault Refusal :=
  .next (match s.heldFault h with
    | none => s
    | some q => if q.2 + Config.replayBound < s.now then s.giveUp h q.1.late else s)

/-- FAULT_RESOLUTION_FAILED (R364): class 8 cause 5, or class 9 cause 2. -/
def execFaultResolutionFailed (h : HoldRef) (s : State) : Host.Outcome State Fault Refusal :=
  .next (match s.heldFault h with
    | none => s
    | some q => s.giveUp h { q.1.late with cause := if q.1.cls = 9 then 2 else 5 })

/-! ### Debug (R381, R382) -/

/-- DEBUG_STOP_ARM: STOP of DBGCTL. -/
def execDebugStopArm (value : Bool) (s : State) : Host.Outcome State Fault Refusal :=
  .next { s with dbg := { s.dbg with stop := value } }

/-- HALT_ENABLE: HEN of DBGCTL. -/
def execHaltEnable (value : Bool) (s : State) : Host.Outcome State Fault Refusal :=
  .next { s with dbg := { s.dbg with hen := value } }

/-- DEBUG_STOP: with STOP set, at the end of tick DBGSTOP. -/
def execDebugStop (s : State) : Host.Outcome State Fault Refusal :=
  .next (if s.dbg.stop ∧ s.slate = s.dbg.dbgstop then { s with dbg := { s.dbg with stopped := true } } else s)

/-- The pages that lossy transfers keep and that are guarded: their old contents are copied at once, since those transfers write
them without a fault (R312, R382). DESIGN CHOICE (log 49). -/
def State.snapshotKept (s : State) : State :=
  (s.fab.incoming.flatMap (fun x => x.pages)).foldl (fun t q =>
    if t.guardedAt (q.1 * 4096) then t.snapshot (q.2 / 4096) else t) s

/-- REEL_START (R367, R382): from 0 to 1, PKTS and FULL are cleared, capture runs, and every writable device leaf is
guarded; from 1 to 0 capture ends and the leaves are writable again. -/
def execReelStart (value : Bool) (s : State) : Host.Outcome State Fault Refusal :=
  .next (if value && !s.dbg.reel then
      let t : State := { s with dbg := { s.dbg with reel := true, pkts := 0, full := false, active := true, packets := [],
                                                    pages := [], wrote := [], used := 0 } }
      ((((leavesOf t.g 5 t.rootTable).map (fun q => q.1)).foldl (fun u a => u.guardLeaf a) t).tlbDrop (fun _ => true)).snapshotKept
    else if !value && s.dbg.reel then
      let t := s.unguardAll
      { t with dbg := { t.dbg with reel := false, active := false } }
    else s)

/-- TAKE_START (R382): from 0 to 1 the snapshot is restored, and then the captured packets are submitted from the first on. -/
def execTakeStart (value : Bool) (s : State) : Host.Outcome State Fault Refusal :=
  .next (if value && !s.dbg.take then
      let all := s.dbg.pages.map (fun q => q.1)
      State.takeOn { s with dbg := { s.dbg with take := true, takePos := some 0, wrote := [], restore := all } }
    else if !value && s.dbg.take then { s with dbg := { s.dbg with take := false, takePos := none, restore := [] } }
    else s)

/-- HISTOGRAM_CLEAR (R383). -/
def execHistogramClear (quadrant counter : Nat) (s : State) : Host.Outcome State Fault Refusal :=
  .next { s with hist := setAt s.hist quadrant (setAt (s.hist.getD quadrant []) counter 0) }

/-- EVENT_QUEUE_CONTROL_WRITE (R368). -/
def execEventQueueControlWrite (value : Word) (s : State) : Host.Outcome State Fault Refusal :=
  let n := bits value.toNat 4 0
  .next { s with events := { s.events with
    en := bit value.toNat 63, log2 := if n < 6 ∨ 20 < n then s.events.log2 else n } }

/-- LANTERN_MISMATCH (R376): the pair reloads its checkpoint and restarts; dispatch pauses for at most 100 µs. -/
def execLanternMismatch (s : State) : Host.Outcome State Fault Refusal :=
  let k := Config.checkpoint s.free
  .next ({ s with firm := { s.firm with lantern := k, pausedUntil := s.now + Config.freeChoice s.free % 100001 } }.postWords
    [s.slate.toNat, k.toNat] 10)

/-! ### Registers of firmware space (R366, R367) -/

/-- One step after another. -/
def thenStep (o : Host.Outcome State Fault Refusal) (f : State → Host.Outcome State Fault Refusal) :
    Host.Outcome State Fault Refusal :=
  match o with
  | .next s => f s
  | x => x

/-- A write of FRCTL (R297): RERR is cleared by a 1; VALID0, VALID1 and INJ change in this order where they differ. -/
def writeFrctl (v : Nat) (s : State) : Host.Outcome State Fault Refusal :=
  let s0 : State := if bit v 1 then { s with fab := { s.fab with rerr := false } } else s
  thenStep (if bit v 2 = s0.fab.valid0 then .next s0 else execFrctlValidWrite 0 (bit v 2) s0) (fun s1 =>
    thenStep (if bit v 3 = s1.fab.valid1 then .next s1 else execFrctlValidWrite 1 (bit v 3) s1) (fun s2 =>
      if BitVec.ofNat 1 v = s2.fab.inj then .next s2 else execFrctlInjWrite (BitVec.ofNat 1 v) s2))

/-- A write of LNKCTL (R303). -/
def writeLnkctl (port v : Nat) (s : State) : Host.Outcome State Fault Refusal :=
  let t := s.updPort port (fun q => { q with auto := bit v 3 })
  if bit v 2 then execLinkStart port t else .next t

/-- A write of DBGCTL (R381). -/
def writeDbgctl (v : Nat) (s : State) : Host.Outcome State Fault Refusal :=
  thenStep (execHaltEnable (bit v 0) s) (fun s1 =>
    thenStep (execDebugStopArm (bit v 1) s1) (fun s2 =>
      thenStep (execReelStart (bit v 2) s2) (execTakeStart (bit v 3))))

/-- A write in the block of a launch queue (R370). -/
def writeQueue (k off : Nat) (value : Word) (s : State) : Host.Outcome State Fault Refusal :=
  if !s.queueOn k then .next s
  else if off = 0 then
    .next (s.updQueue k (fun q => if q.en then q else { q with rbase := BitVec.ofNat 64 (bits value.toNat 56 6 * 64) }))
  else if off = 8 then execLaunchQueueControlWrite k value s
  else if off = 0x20 then .next (if bit value.toNat 1 then s.updQueue k (fun q => { q with werr := false }) else s)
  else if off = 0x28 then (if bit value.toNat 0 then execLaunchQueueReset k s else .next s)
  else .next s

/-- A write in the block of the event queue (R368). -/
def writeEvents (off : Nat) (value : Word) (s : State) : Host.Outcome State Fault Refusal :=
  if off = 0 then .next { s with events := { s.events with base := BitVec.ofNat 64 (bits value.toNat 51 12 * 4096) } }
  else if off = 8 then execEventQueueControlWrite value s
  else if off = 0x18 then .next { s with events := { s.events with head := value } }
  else if off = 0x20 then .next { s with events := { s.events with ovf := s.events.ovf &&& ~~~(value.setWidth 32) } }
  else .next s

/-- Writes of REELBASE and REELSIZE while REEL or TAKE is 1 are ignored (R367). -/
def writeReel (off : Nat) (value : Word) (s : State) : State :=
  if s.dbg.reel || s.dbg.take then s
  else if off = 0x6010 then { s with dbg := { s.dbg with reelBase := BitVec.ofNat 64 (bits value.toNat 51 12 * 4096) } }
  else { s with dbg := { s.dbg with reelSize := BitVec.ofNat 64 (bits value.toNat 39 12 * 4096) } }

/-- A write at an offset of firmware space (R366): read-only registers and other offsets keep nothing. -/
def writeReg (offset : Nat) (value : Word) (s : State) : Host.Outcome State Fault Refusal :=
  let v := value.toNat
  if offset = 0x0008 then execGcfgWrite value s
  else if offset = 0x0010 then execGgrpWrite value s
  else if offset = 0x0100 then writeFrctl v s
  else if offset = 0x0108 then execLnktoWrite value s
  else if 0x0200 ≤ offset ∧ offset < 0x0400 ∧ offset % 8 = 0 then writeLnkctl ((offset - 0x0200) / 8) v s
  else if 0x1000 ≤ offset ∧ offset < 0x2000 ∧ offset % 2 = 0 then
    execRoutingEntryWrite (BitVec.ofNat 1 ((offset - 0x1000) / 2048)) (BitVec.ofNat 10 (offset % 2048 / 2)) (value.setWidth 16) s
  else if offset = 0x2000 then .next { s with firm := { s.firm with ptroot := BitVec.ofNat 64 (bits v 51 12 * 4096) } }
  else if offset = 0x2008 then execTlbinv value s
  else if 0x3000 ≤ offset ∧ offset < 0x4000 then writeQueue ((offset - 0x3000) / 64) (offset % 64) value s
  else if 0x4000 ≤ offset ∧ offset < 0x4040 then writeEvents (offset - 0x4000) value s
  else if 0x4400 ≤ offset ∧ offset < 0x4600 then
    execWakeStore ((offset - 0x4400) / 8) 8 (decide (offset % 8 = 0)) value s
  else if offset = 0x5008 then .next (if value = 0 then { s with flash := { s.flash with bootfail := 0 } } else s)
  else if offset = 0x6000 then writeDbgctl v s
  else if offset = 0x6008 then .next { s with dbg := { s.dbg with dbgstop := value } }
  else if offset = 0x6010 ∨ offset = 0x6018 then .next (writeReel offset value s)
  else if 0x10000 ≤ offset ∧ offset < 0x50000 ∧ offset % 8 = 0 ∧ offset % 256 / 8 < 23 ∧ value = 0 then
    execHistogramClear ((offset - 0x10000) / 256) (offset % 256 / 8) s
  else .next s

/-- Does BAR0 map an offset to firmware space (R366)? -/
def inBar0 (offset : Nat) : Bool := decide (0x3000 ≤ offset) && decide (offset < 0x100000)

/-- Bit k of a register. -/
def flagBit (k : Nat) (b : Bool) : Nat := if b then 2 ^ k else 0

/-- A launch queue's register as it is read (R370, R379): RESET, which is write only, reads zero (R5). -/
def State.queueReg (s : State) (k off : Nat) : Nat :=
  let q := s.queue k
  if off = 0 then q.rbase.toNat
  else if off = 8 then flagBit 63 (q.en && s.queueOn k) + q.log2
  else if off = 0x10 then q.rd.toNat
  else if off = 0x18 then q.wr.toNat
  else if off = 0x20 then q.err * 2 ^ 8 + flagBit 1 q.werr + flagBit 0 q.halt
  else if off = 0x30 then q.phase
  else 0

/-- The event queue's registers as they are read (R368). -/
def EventQ.reg (e : EventQ) (off : Nat) : Nat :=
  if off = 0 then e.base.toNat
  else if off = 8 then flagBit 63 e.en + e.log2
  else if off = 0x10 then e.tail.toNat
  else if off = 0x18 then e.head.toNat
  else if off = 0x20 then e.ovf.toNat
  else 0

/-- LNKCTL as it is read (R303): START, which is write only, reads zero (R5). -/
def Port.lnkctl (q : Port) : Nat := q.fails * 2 ^ 8 + flagBit 3 q.auto + flagBit 1 q.down + flagBit 0 q.up

/-- FRCTL as it is read (R297). -/
def State.frctl (s : State) : Nat :=
  s.heldCount 1 % 2 ^ 20 * 2 ^ 24 + s.heldCount 0 % 2 ^ 20 * 2 ^ 4 + flagBit 3 s.fab.valid1 + flagBit 2 s.fab.valid0 +
    flagBit 1 s.fab.rerr + s.fab.inj.toNat

/-- DBGCTL and REELSTAT as they are read (R367, R381). -/
def Debug.ctl (d : Debug) : Nat := flagBit 3 d.take + flagBit 2 d.reel + flagBit 1 d.stop + flagBit 0 d.hen
def Debug.stat (d : Debug) : Nat := d.pkts % 2 ^ 32 * 2 ^ 32 + flagBit 1 d.active + flagBit 0 d.full

/-- A read of firmware space (R5, R366): write-only registers and fields, reserved bits and other offsets read zero. -/
def State.regRead (s : State) (offset : Nat) : Word :=
  BitVec.ofNat 64
    (if offset = 0 then s.power.fuse.word
     else if offset = 0x0008 then s.power.gcfg.word
     else if offset = 0x0010 then s.power.ggrp.word
     else if offset = 0x0100 then s.frctl
     else if offset = 0x0108 then s.fab.lnkto
     else if 0x0200 ≤ offset ∧ offset < 0x0400 ∧ offset % 8 = 0 then (s.port ((offset - 0x0200) / 8)).lnkctl
     else if 0x1000 ≤ offset ∧ offset < 0x2000 ∧ offset % 2 = 0 then
       (s.routeEntry (BitVec.ofNat 1 ((offset - 0x1000) / 2048)) (BitVec.ofNat 10 (offset % 2048 / 2))).toNat
     else if offset = 0x2000 then s.firm.ptroot.toNat
     else if 0x3000 ≤ offset ∧ offset < 0x4000 then s.queueReg ((offset - 0x3000) / 64) (offset % 64)
     else if 0x4000 ≤ offset ∧ offset < 0x4040 then s.events.reg (offset - 0x4000)
     else if offset = 0x5000 then s.bootStat
     else if offset = 0x5008 then s.flash.bootfail
     else if offset = 0x6000 then s.dbg.ctl
     else if offset = 0x6008 then s.dbg.dbgstop.toNat
     else if offset = 0x6010 then s.dbg.reelBase.toNat
     else if offset = 0x6018 then s.dbg.reelSize.toNat
     else if offset = 0x6020 then s.dbg.stat
     else if 0x10000 ≤ offset ∧ offset < 0x50000 ∧ offset % 8 = 0 then
       (s.hist.getD ((offset - 0x10000) / 256) []).getD (offset % 256 / 8) 0
     else 0)

/-- A read through BAR0 (R366). -/
def State.bar0Read (s : State) (offset : Nat) : Word := if inBar0 offset then s.regRead offset else 0

/-! ### Boot (R377 to R379) -/

/-- The fields of a marker record. -/
def markerNumber (m : Marker) : Nat := word8 m 0
def markerSlot (m : Marker) : Nat := bits (word8 m 8) 1 0

/-- Does a record verify (R377)? -/
def markerOk (m : Marker) : Bool :=
  m.length == 256 && Config.firmwareSigOk (toBytes 64 (Config.sha512 (m.take 0x78)).toNat) ((m.drop 0x78).take 132)

/-- Does the slot of a record hash to its HASH (R378)? -/
def Flash.slotOk (f : Flash) (m : Marker) : Bool :=
  let img := if markerSlot m = 0 then f.slotA else f.slotB
  decide (markerSlot m < 2) && toBytes 64 (Config.sha512 (img.take (word8 m 0x10))).toNat == (m.drop 0x18).take 64

/-- Insert a record by its NUMBER, highest first. -/
def insertMarker (m : Marker) : List Marker → List Marker
  | [] => [m]
  | x :: r => if markerNumber x < markerNumber m then m :: x :: r else x :: insertMarker m r

/-- The records that verify, highest NUMBER first (R378). -/
def Flash.valid (f : Flash) : List Marker := ((f.areaA ++ f.areaB).filter markerOk).foldl (fun a m => insertMarker m a) []

/-- The boot ROM's choice (R378, R379): mode, BOOTSTAT, and whether it hands over. -/
def Flash.boot (f : Flash) : Mode × BootStat :=
  let st (m : Option Marker) (reason : Nat) : BootStat :=
    { recno := BitVec.ofNat 32 ((m.map markerNumber).getD 0), fails := f.bootfail, slot := (m.map markerSlot).getD 3,
      reason := reason, hash := BitVec.ofNat 512 (ofBytes ((m.map (fun x => (x.drop 0x18).take 64)).getD [])),
      number := BitVec.ofNat 64 ((m.map markerNumber).getD 0) }
  match f.valid.find? f.slotOk with
  | some m => if 3 ≤ f.bootfail then (.minimal, st (some m) 1) else (.full, st (some m) 0)
  | none => (.recovery, st none (if f.valid.isEmpty then 2 else 3))

/-- POWER_ON_RESET (R377 to R379): everything is as reset leaves it, in the mode that the boot ROM chooses; the flash, the
always-on BOOTFAIL, which the ROM raises before it hands over, memory outside the cores (log 42) and what identifies the package stay. -/
def execPowerOnReset (s : State) : Host.Outcome State Fault Refusal :=
  let b := s.flash.boot
  let t : State := { State.reset with
    pkgId := s.pkgId, mode := b.1, g := s.g, boot := b.2, free := s.free, stamp := s.stamp, nextId := s.nextId
    flash := { s.flash with bootfail := if b.1 = .recovery then s.flash.bootfail else s.flash.bootfail + 1 } }
  .next (t.postWords [t.slate.toNat, t.bootStat] 9)

/-- The slot that the newest record does not name (R377). -/
def Flash.spareSlot (f : Flash) : Nat :=
  match f.valid with
  | m :: _ => if markerSlot m = 0 then 1 else 0
  | [] => 0

/-- Does the newest record stand in area B and not in area A? Records go to that area then. -/
def Flash.inB (f : Flash) : Bool :=
  match f.valid with
  | m :: _ => f.areaB.contains m && !(f.areaA.contains m && decide (f.areaA.length < Config.areaRecords))
  | [] => decide (Config.areaRecords ≤ f.areaA.length)

/-- The area in use, and the other. -/
def Flash.used (f : Flash) : List Marker := if f.inB then f.areaB else f.areaA
def Flash.other (f : Flash) : List Marker := if f.inB then f.areaA else f.areaB
def Flash.setUsed (f : Flash) (l : List Marker) : Flash := if f.inB then { f with areaB := l } else { f with areaA := l }
def Flash.setOther (f : Flash) (l : List Marker) : Flash := if f.inB then { f with areaA := l } else { f with areaB := l }

/-- A slot of the flash is written. -/
def Flash.setSlot (f : Flash) (k : Nat) (image : List Byte) : Flash :=
  if k = 0 then { f with slotA := image } else { f with slotB := image }

/-- Step 1 of an update (R377): firmware writes the slot that the newest record does not name. -/
def Flash.writeSlot (f : Flash) (image : List Byte) : Flash :=
  if image.length ≤ Config.slotBytes then f.setSlot f.spareSlot image else f

/-- Step 2: it appends a record with NUMBER one higher, where the area in use has room. -/
def Flash.append (f : Flash) (m : Marker) : Flash :=
  if m.length = 256 ∧ markerNumber m = ((f.valid.head?).elim 0 (fun x => markerNumber x + 1)) ∧
      f.used.length < Config.areaRecords then f.setUsed (f.used ++ [m]) else f

/-- Step 3: when the area in use is full, the newest record is written first into the other one, -/
def Flash.moveNewest (f : Flash) : Flash :=
  match f.valid with
  | m :: _ =>
    if Config.areaRecords ≤ f.used.length ∧ f.other.length < Config.areaRecords then f.setOther (f.other ++ [m]) else f
  | [] => f

/-- and only then the full one is erased. -/
def Flash.eraseFull (f : Flash) : Flash :=
  match f.valid with
  | m :: _ =>
    if Config.areaRecords ≤ f.areaA.length ∧ f.areaB.contains m then { f with areaA := [] }
    else if Config.areaRecords ≤ f.areaB.length ∧ f.areaA.contains m then { f with areaB := [] }
    else f
  | [] => f

/-! ### Register writes (R5, R366), and what firmware sets without a register -/

/-- The loader records a text section in the code map (R125): one beyond 4,096 sections is rejected. -/
def State.addSection (s : State) (text words table : Nat) : State :=
  if s.firm.codeMap.length < Config.codeSections then
    { s with firm := { s.firm with codeMap := s.firm.codeMap ++ [(text, words, table)] } }
  else s

/-- Firmware aligns the slate clock at bring-up (R323). SLATE never decreases, and passes no tick at which a stop is armed
(R381). DESIGN CHOICE (log 5). -/
def State.alignSlate (s : State) (v : Word) : State :=
  if v.toNat < s.slate.toNat ∨ (s.dbg.stop = true ∧ s.slate.toNat ≤ s.dbg.dbgstop.toNat ∧ s.dbg.dbgstop.toNat < v.toNat) then s
  else { s with slate := v }

/-- May this writer make this write: through BAR0 the host reaches the registers from 0x3000 on only (R366). -/
def writerMay (who : Writer) : FirmWrite → Bool
  | .reg offset _ | .load offset => who == .firmware || inBar0 offset
  | _ => who == .firmware

/-- What a load of a register leaves (R371): one of a wake register is an access that is no wake store, and sets WERR; any other
load leaves everything as it is. What it answers is State.regRead or State.bar0Read. -/
def State.regLoad (s : State) (offset : Nat) : State :=
  if 0x4400 ≤ offset ∧ offset < 0x4600 then s.wakeErrors [.wake s.pkgId.toNat ((offset - 0x4400) / 8)] else s

/-- REGISTER_WRITE (R5, R366): a write that its writer may not make does nothing. -/
def execRegisterWrite (who : Writer) (w : FirmWrite) (s : State) : Host.Outcome State Fault Refusal :=
  if !writerMay who w then .next s else
  match w with
  | .reg offset value => writeReg offset value s
  | .load offset => .next (s.regLoad offset)
  | .code text words table => .next (s.addSection text.toNat words table.toNat)
  | .weights a b => .next { s with fab := { s.fab with weights := (a, b) } }
  | .slate v => .next (s.alignSlate v)
  | .stopExchange port => .next (s.updPort port (fun q => { q with bringing := false, offer := none }))
  | .slot image => .next { s with flash := s.flash.writeSlot image }
  | .record m => .next { s with flash := s.flash.append m }
  | .moveRecord => .next { s with flash := s.flash.moveNewest }
  | .eraseArea => .next { s with flash := s.flash.eraseFull }

/-- POWER_LOSS (R378): a slot being written holds open bytes, a record being written is partial; nothing runs until the
next power-on reset. -/
def execPowerLoss (slotWrite recordWrite : Bool) (s : State) : Host.Outcome State Fault Refusal :=
  let junk : List Byte := (List.range 64).map (fun i => Config.flashByte s.free i)
  let f := s.flash
  let f1 := if slotWrite then f.setSlot f.spareSlot junk else f
  let f2 := if recordWrite then f1.setUsed (f1.used ++ [junk]) else f1
  .next { s with flash := f2, dbg := { s.dbg with stopped := true } }

end Sys2Proof.Machine
end

