-- ==== Sys2Proof/Machine/Lanes.lean ====
section
/-! DEFINITION. Cross-lane instructions, votes, masks and the execution mask (R181 to R187). -/

namespace Sys2Proof.Machine

/-- A lane-moving instruction: lane i of the destination is the source lane that pick names (R181, R187). -/
def laneMove (o : FieldsR) (pick : Env → Nat → Nat) (e : Env) : Res :=
  let el := intElem o.ty
  vecOut e el o.dst.toNat o.pred (fun i j => (srcElem e.v o 1 o.sa el (pick e i % Config.creww) j, 0))

/-- VSHUF. -/
def execVshuf (o : FieldsR) (s : State) : Host.Outcome State Fault Refusal :=
  runWord (.vshuf o) s (laneMove o (fun e i => srcElem e.v o 2 o.sb (intElem o.ty) i 0 % 2 ^ 32))
/-- VROT. -/
def execVrot (o : FieldsR) (s : State) : Host.Outcome State Fault Refusal :=
  runWord (.vrot o) s (laneMove o (fun e i =>
    (((i : Int) + sextInt 32 (bcastBits e.v o 32 o.sb)) % (Config.creww : Nat)).toNat))
/-- The distance of VBFLY. -/
def flyBy (w : Bool) (j : Nat) : Nat := if w then Config.creww / 2 ^ (j + 1) else 2 ^ j
/-- VBFLY. -/
def execVbfly (o : FieldsR) (s : State) : Host.Outcome State Fault Refusal :=
  runWord (.vbfly o) s (laneMove o (fun e i =>
    let d := flyBy (o.md == 1) (bcastBits e.v o 32 o.sb % 64)
    if d < 1 ∨ Config.creww ≤ d then i else i ^^^ d))
/-- VBCST. -/
def execVbcst (o : FieldsR) (s : State) : Host.Outcome State Fault Refusal :=
  runWord (.vbcst o) s (laneMove o (fun e _ => bcastBits e.v o 32 o.sb))

/-! ### Reductions and scans (R182) -/

/-- Is the type marked floating (R182)? -/
def redFloat (o : FieldsR) : Bool := fld o.md 4 4 == 1
/-- Element type of a reduction. -/
def redElem (o : FieldsR) : Elem := if redFloat o then fpElem o.ty else intElem o.ty

/-- comb of two values. -/
def redComb (o : FieldsR) (a b : Nat) : Nat × Flags :=
  let k := fld o.md 2 0
  if redFloat o then
    let f := fpFmt o.ty
    if k = 0 then f.finish o.rm.toNat (FVal.add o.rm.toNat (f.decode a) (f.decode b)) else f.minmax (k == 1) a b
  else
    intFn o.ty false (if k = 0 then rowAdd else if k = 1 then rowMin else if k = 2 then rowMax
      else if k = 3 then rowAnd else if k = 4 then rowOr else rowXor) a b 0

/-- comb where one or both may be none. -/
def redOpt (o : FieldsR) : Option Nat → Option Nat → Option Nat × Flags
  | some a, some b => let r := redComb o a b; (some r.1, r.2)
  | some a, none => (some a, 0)
  | none, y => (y, 0)

/-- One level of the tree of VRDC. -/
def redLevel (o : FieldsR) : List (Option Nat) → List (Option Nat) × Flags
  | a :: b :: r =>
    let x := redOpt o a b
    let y := redLevel o r
    (x.1 :: y.1, x.2 ||| y.2)
  | l => (l, 0)

/-- The tree of VRDC over a crew's width. -/
def redTree (o : FieldsR) : Nat → List (Option Nat) → Option Nat × Flags
  | 0, l => (l.headD none, 0)
  | n + 1, l =>
    let x := redLevel o l
    let y := redTree o n x.1
    (y.1, x.2 ||| y.2)

/-- VRDC. -/
def execVrdc (o : FieldsR) (s : State) : Host.Outcome State Fault Refusal :=
  runWord (.vrdc o) s (fun e =>
    let el := redElem o
    let act := activeMask e.v e.p.side.exm o.pred
    let rs := (List.range el.count).map (fun j =>
      redTree o 6 (lanes.map (fun i => if act.getLsbD i then some (srcElem e.v o 1 o.sa el i j) else none)))
    vecOut e el o.dst.toNat o.pred (fun _ j => let r := rs.getD j (none, 0); (r.1.getD 0, r.2)))

/-- The identity of an exclusive scan. -/
def redId (o : FieldsR) : Nat :=
  let k := fld o.md 2 0
  if redFloat o then
    let f := fpFmt o.ty
    if k = 0 then f.zeroBits true else f.infBits (k == 2)
  else
    let n := (intElem o.ty).bits
    let sg := tySigned o.ty
    if k = 1 then wrapNat n (intHi sg n) else if k = 2 then wrapNat n (intLo sg n) else if k = 3 then 2 ^ n - 1 else 0

/-- VSCAN over the values of the active lanes, ascending: what each lane receives, with the flags of its step. -/
def scan (o : FieldsR) (excl : Bool) : Option Nat → List Nat → List (Nat × Flags)
  | _, [] => []
  | acc, x :: r =>
    let y := redOpt o acc (some x)
    (if excl then acc.getD (redId o) else y.1.getD 0, y.2) :: scan o excl y.1 r

/-- VSCAN. -/
def execVscan (o : FieldsR) (s : State) : Host.Outcome State Fault Refusal :=
  runWord (.vscan o) s (fun e =>
    let el := redElem o
    let ls := maskLanes (activeMask e.v e.p.side.exm o.pred)
    let vs := (List.range el.count).flatMap (fun j =>
      (ls.zip (scan o (fld o.md 3 3 == 1) none (ls.map (fun i => srcElem e.v o 1 o.sa el i j)))).map (fun q =>
        (q.1, j, q.2)))
    .ok (e.s.updCrew e.r.crew (fun c => c.putVals el o.dst.toNat vs)))

/-! ### Lanes, scalars and masks (R183) -/

/-- The lane number of VEXT and VINS. -/
def laneOf (e : Env) (o : FieldsR) : Nat := bcastBits e.v o 32 o.sb % Config.creww

/-- VEXT. -/
def execVext (o : FieldsR) (s : State) : Host.Outcome State Fault Refusal :=
  runWord (.vext o) s (fun e =>
    let el := intElem o.ty
    let x := e.v.elem el.kind o.sa.toNat (laneOf e o) el.bytes (fld o.md 1 0)
    .ok (e.s.ws e.r.crew o.dst.toNat (wordOf (intOf (tySigned o.ty) el.bits x))))
/-- VINS. -/
def execVins (o : FieldsR) (s : State) : Host.Outcome State Fault Refusal :=
  runWord (.vins o) s (fun e =>
    let el := intElem o.ty
    let k := laneOf e o
    if (activeMask e.v e.p.side.exm o.pred).getLsbD k then
      .ok (e.s.updCrew e.r.crew (fun c =>
        c.wrElem el.kind o.dst.toNat k el.bytes (fld o.md 1 0) (e.v.rs o.sa.toNat).toNat))
    else .ok e.s)
/-- The lanes that vote: a non-zero pattern in element MOD [3:2]. -/
def votes (e : Env) (o : FieldsR) : Mask :=
  let el := intElem o.ty
  maskOf (fun i => e.v.elem el.kind o.sa.toNat i el.bytes (fld o.md 3 2) != 0)
/-- VBALLOT. -/
def execVballot (o : FieldsR) (s : State) : Host.Outcome State Fault Refusal :=
  runWord (.vballot o) s (fun e =>
    .ok (e.s.updCrew e.r.crew (fun c =>
      c.wkOn o.dst.toNat (activeMask e.v e.p.side.exm o.pred) (votes e o))))
/-- The result of VVOTE by mode. -/
def voteVal (md : Nat) (act yes : Mask) : Nat :=
  let y := act &&& yes
  if md = 0 then (if y ≠ 0 then 1 else 0)
  else if md = 1 then (if y = act then 1 else 0)
  else if md = 2 then (maskLanes y).length
  else (maskLanes y).headD Config.creww
/-- VVOTE. -/
def execVvote (o : FieldsR) (s : State) : Host.Outcome State Fault Refusal :=
  runWord (.vvote o) s (fun e =>
    .ok (e.s.ws e.r.crew o.dst.toNat
      (BitVec.ofNat 64 (voteVal (fld o.md 1 0) (activeMask e.v e.p.side.exm o.pred) (votes e o)))))

/-! ### Masks (R184, R185) -/

/-- A mask instruction writes the bits of active lanes. -/
def maskOp (o : FieldsR) (f : Mask → Mask → Mask) (e : Env) : Res :=
  .ok (e.s.updCrew e.r.crew (fun c =>
    c.wkOn o.dst.toNat (activeMask e.v e.p.side.exm o.pred) (f (e.v.rk o.sa.toNat) (e.v.rk o.sb.toNat))))

def execKand (o : FieldsR) (s : State) : Host.Outcome State Fault Refusal :=
  runWord (.kand o) s (maskOp o (fun a b => a &&& b))
def execKor (o : FieldsR) (s : State) : Host.Outcome State Fault Refusal :=
  runWord (.kor o) s (maskOp o (fun a b => a ||| b))
def execKxor (o : FieldsR) (s : State) : Host.Outcome State Fault Refusal :=
  runWord (.kxor o) s (maskOp o (fun a b => a ^^^ b))
def execKnot (o : FieldsR) (s : State) : Host.Outcome State Fault Refusal :=
  runWord (.knot o) s (maskOp o (fun a _ => ~~~a))
/-- KMOV from a mask, or from a scalar by the broadcast. -/
def execKmov (o : FieldsR) (s : State) : Host.Outcome State Fault Refusal :=
  runWord (.kmov o) s (fun e =>
    maskOp o (fun a _ => if replaces o 1 then BitVec.ofNat 64 (bcastBits e.v o 64 o.sa) else a) e)
/-- KMOV to a scalar ignores EXM and the predicate. -/
def execKmovS (o : FieldsR) (s : State) : Host.Outcome State Fault Refusal :=
  runWord (.kmovS o) s (fun e => .ok (e.s.ws e.r.crew o.dst.toNat (e.v.rk o.sa.toNat)))
/-- EXMRD writes the bits of the path's members. -/
def execExmrd (o : FieldsR) (s : State) : Host.Outcome State Fault Refusal :=
  runWord (.exmrd o) s (fun e =>
    .ok (e.s.updCrew e.r.crew (fun c => c.wkOn o.dst.toNat e.p.side.members e.p.side.exm)))
/-- EXMWR narrows EXM of the executing path. -/
def execExmwr (o : FieldsR) (s : State) : Host.Outcome State Fault Refusal :=
  runWord (.exmwr o) s (fun e =>
    .ok (e.s.updPath e.r (fun p => { p with side := { p.side with exm := p.side.exm &&& e.v.rk o.sa.toNat } })))

end Sys2Proof.Machine
end

