-- ==== Sys2Proof/Machine/Dispatch.lean ====
section
/-! DEFINITION. The one match that gives each instruction and event its meaning. -/

namespace Sys2Proof.Machine
open Sys2Proof

/-- What an instruction or event does to a state. -/
def exec (i : Instr) (s : State) : Host.Outcome State Fault Refusal :=
  match i with
  | .clauseIssue r => Sys2Proof.Machine.execClauseIssue r s
  | .wordComplete r n => Sys2Proof.Machine.execWordComplete r n s
  | .bra o => Sys2Proof.Machine.execBra o s
  | .brc o => Sys2Proof.Machine.execBrc o s
  | .brv o => Sys2Proof.Machine.execBrv o s
  | .join o => Sys2Proof.Machine.execJoin o s
  | .call o => Sys2Proof.Machine.execCall o s
  | .ret o => Sys2Proof.Machine.execRet o s
  | .jmpi o => Sys2Proof.Machine.execJmpi o s
  | .loop o => Sys2Proof.Machine.execLoop o s
  | .exit o => Sys2Proof.Machine.execExit o s
  | .pause o => Sys2Proof.Machine.execPause o s
  | .pauseW o => Sys2Proof.Machine.execPauseW o s
  | .pauseCountExpiry r => Sys2Proof.Machine.execPauseCountExpiry r s
  | .spawn o => Sys2Proof.Machine.execSpawn o s
  | .spawnr o => Sys2Proof.Machine.execSpawnr o s
  | .enql o => Sys2Proof.Machine.execEnql o s
  | .partialCastTimeout cluster region entry => Sys2Proof.Machine.execPartialCastTimeout cluster region entry s
  | .laneTaskRefill region cluster => Sys2Proof.Machine.execLaneTaskRefill region cluster s
  | .spawnRingDrain region => Sys2Proof.Machine.execSpawnRingDrain region s
  | .bari o => Sys2Proof.Machine.execBari o s
  | .bara o => Sys2Proof.Machine.execBara o s
  | .barw o => Sys2Proof.Machine.execBarw o s
  | .bars o => Sys2Proof.Machine.execBars o s
  | .barrierTimeout core barrier => Sys2Proof.Machine.execBarrierTimeout core barrier s
  | .movi o => Sys2Proof.Machine.execMovi o s
  | .movh o => Sys2Proof.Machine.execMovh o s
  | .adda o => Sys2Proof.Machine.execAdda o s
  | .mov o => Sys2Proof.Machine.execMov o s
  | .add o => Sys2Proof.Machine.execAdd o s
  | .sub o => Sys2Proof.Machine.execSub o s
  | .mul o => Sys2Proof.Machine.execMul o s
  | .mulh o => Sys2Proof.Machine.execMulh o s
  | .div o => Sys2Proof.Machine.execDiv o s
  | .rem o => Sys2Proof.Machine.execRem o s
  | .and o => Sys2Proof.Machine.execAnd o s
  | .or o => Sys2Proof.Machine.execOr o s
  | .xor o => Sys2Proof.Machine.execXor o s
  | .not o => Sys2Proof.Machine.execNot o s
  | .shl o => Sys2Proof.Machine.execShl o s
  | .shr o => Sys2Proof.Machine.execShr o s
  | .sar o => Sys2Proof.Machine.execSar o s
  | .rot o => Sys2Proof.Machine.execRot o s
  | .min o => Sys2Proof.Machine.execMin o s
  | .max o => Sys2Proof.Machine.execMax o s
  | .cmp o => Sys2Proof.Machine.execCmp o s
  | .sel o => Sys2Proof.Machine.execSel o s
  | .clz o => Sys2Proof.Machine.execClz o s
  | .popc o => Sys2Proof.Machine.execPopc o s
  | .bfe o => Sys2Proof.Machine.execBfe o s
  | .bfi o => Sys2Proof.Machine.execBfi o s
  | .srd o => Sys2Proof.Machine.execSrd o s
  | .swr o => Sys2Proof.Machine.execSwr o s
  | .vadd o => Sys2Proof.Machine.execVadd o s
  | .vsub o => Sys2Proof.Machine.execVsub o s
  | .vmul o => Sys2Proof.Machine.execVmul o s
  | .vmulh o => Sys2Proof.Machine.execVmulh o s
  | .vmad o => Sys2Proof.Machine.execVmad o s
  | .vand o => Sys2Proof.Machine.execVand o s
  | .vor o => Sys2Proof.Machine.execVor o s
  | .vxor o => Sys2Proof.Machine.execVxor o s
  | .vnot o => Sys2Proof.Machine.execVnot o s
  | .vshl o => Sys2Proof.Machine.execVshl o s
  | .vshr o => Sys2Proof.Machine.execVshr o s
  | .vsar o => Sys2Proof.Machine.execVsar o s
  | .vmin o => Sys2Proof.Machine.execVmin o s
  | .vmax o => Sys2Proof.Machine.execVmax o s
  | .vabs o => Sys2Proof.Machine.execVabs o s
  | .vclz o => Sys2Proof.Machine.execVclz o s
  | .vpopc o => Sys2Proof.Machine.execVpopc o s
  | .vbfe o => Sys2Proof.Machine.execVbfe o s
  | .vbfi o => Sys2Proof.Machine.execVbfi o s
  | .vmov o => Sys2Proof.Machine.execVmov o s
  | .vcmp o => Sys2Proof.Machine.execVcmp o s
  | .vsel o => Sys2Proof.Machine.execVsel o s
  | .vmovs o => Sys2Proof.Machine.execVmovs o s
  | .vfadd o => Sys2Proof.Machine.execVfadd o s
  | .vfsub o => Sys2Proof.Machine.execVfsub o s
  | .vfmul o => Sys2Proof.Machine.execVfmul o s
  | .vfma o => Sys2Proof.Machine.execVfma o s
  | .vfmin o => Sys2Proof.Machine.execVfmin o s
  | .vfmax o => Sys2Proof.Machine.execVfmax o s
  | .vfabs o => Sys2Proof.Machine.execVfabs o s
  | .vfneg o => Sys2Proof.Machine.execVfneg o s
  | .vfrnd o => Sys2Proof.Machine.execVfrnd o s
  | .vfcmp o => Sys2Proof.Machine.execVfcmp o s
  | .vfcls o => Sys2Proof.Machine.execVfcls o s
  | .vrcp o => Sys2Proof.Machine.execVrcp o s
  | .vrsq o => Sys2Proof.Machine.execVrsq o s
  | .vsqrt o => Sys2Proof.Machine.execVsqrt o s
  | .vexp2 o => Sys2Proof.Machine.execVexp2 o s
  | .vlog2 o => Sys2Proof.Machine.execVlog2 o s
  | .vsin o => Sys2Proof.Machine.execVsin o s
  | .vcos o => Sys2Proof.Machine.execVcos o s
  | .vfcvt o => Sys2Proof.Machine.execVfcvt o s
  | .vpack o => Sys2Proof.Machine.execVpack o s
  | .vunpk o => Sys2Proof.Machine.execVunpk o s
  | .vcbtEnc o => Sys2Proof.Machine.execVcbtEnc o s
  | .vcbtDec o => Sys2Proof.Machine.execVcbtDec o s
  | .vcbtMov o => Sys2Proof.Machine.execVcbtMov o s
  | .vqhist o => Sys2Proof.Machine.execVqhist o s
  | .vqnt o => Sys2Proof.Machine.execVqnt o s
  | .vshuf o => Sys2Proof.Machine.execVshuf o s
  | .vrot o => Sys2Proof.Machine.execVrot o s
  | .vbfly o => Sys2Proof.Machine.execVbfly o s
  | .vbcst o => Sys2Proof.Machine.execVbcst o s
  | .vrdc o => Sys2Proof.Machine.execVrdc o s
  | .vscan o => Sys2Proof.Machine.execVscan o s
  | .vext o => Sys2Proof.Machine.execVext o s
  | .vins o => Sys2Proof.Machine.execVins o s
  | .vballot o => Sys2Proof.Machine.execVballot o s
  | .vvote o => Sys2Proof.Machine.execVvote o s
  | .kand o => Sys2Proof.Machine.execKand o s
  | .kor o => Sys2Proof.Machine.execKor o s
  | .kxor o => Sys2Proof.Machine.execKxor o s
  | .knot o => Sys2Proof.Machine.execKnot o s
  | .kmov o => Sys2Proof.Machine.execKmov o s
  | .kmovS o => Sys2Proof.Machine.execKmovS o s
  | .exmrd o => Sys2Proof.Machine.execExmrd o s
  | .exmwr o => Sys2Proof.Machine.execExmwr o s
  | .pairWord o => Sys2Proof.Machine.execPairWord o s
  | .ld o => Sys2Proof.Machine.execLd o s
  | .st o => Sys2Proof.Machine.execSt o s
  | .lda o => Sys2Proof.Machine.execLda o s
  | .stl o => Sys2Proof.Machine.execStl o s
  | .vld o => Sys2Proof.Machine.execVld o s
  | .vst o => Sys2Proof.Machine.execVst o s
  | .vldg o => Sys2Proof.Machine.execVldg o s
  | .vsts o => Sys2Proof.Machine.execVsts o s
  | .vldb o => Sys2Proof.Machine.execVldb o s
  | .at o => Sys2Proof.Machine.execAt o s
  | .acas o => Sys2Proof.Machine.execAcas o s
  | .vat o => Sys2Proof.Machine.execVat o s
  | .fence o => Sys2Proof.Machine.execFence o s
  | .pref o => Sys2Proof.Machine.execPref o s
  | .lock o => Sys2Proof.Machine.execLock o s
  | .unlk o => Sys2Proof.Machine.execUnlk o s
  | .bnkcfg o => Sys2Proof.Machine.execBnkcfg o s
  | .fput o => Sys2Proof.Machine.execFput o s
  | .fget o => Sys2Proof.Machine.execFget o s
  | .waitc o => Sys2Proof.Machine.execWaitc o s
  | .waitcTimeout r => Sys2Proof.Machine.execWaitcTimeout r s
  | .cpy o => Sys2Proof.Machine.execCpy o s
  | .cpy2 o => Sys2Proof.Machine.execCpy2 o s
  | .cpyt o => Sys2Proof.Machine.execCpyt o s
  | .cpyq o => Sys2Proof.Machine.execCpyq o s
  | .sealb o => Sys2Proof.Machine.execSealb o s
  | .waitb o => Sys2Proof.Machine.execWaitb o s
  | .waitbT o => Sys2Proof.Machine.execWaitbT o s
  | .waitbTimeout r => Sys2Proof.Machine.execWaitbTimeout r s
  | .dollyUnit copy => Sys2Proof.Machine.execDollyUnit copy s
  | .copyComplete copy => Sys2Proof.Machine.execCopyComplete copy s
  | .copyHoldTimeout copy => Sys2Proof.Machine.execCopyHoldTimeout copy s
  | .mma o => Sys2Proof.Machine.execMma o s
  | .mmat o => Sys2Proof.Machine.execMmat o s
  | .mmaw o => Sys2Proof.Machine.execMmaw o s
  | .wbld o => Sys2Proof.Machine.execWbld o s
  | .tld o => Sys2Proof.Machine.execTld o s
  | .tst o => Sys2Proof.Machine.execTst o s
  | .ald o => Sys2Proof.Machine.execAld o s
  | .ast o => Sys2Proof.Machine.execAst o s
  | .aclr o => Sys2Proof.Machine.execAclr o s
  | .ascl o => Sys2Proof.Machine.execAscl o s
  | .acvt o => Sys2Proof.Machine.execAcvt o s
  | .tsigTile o => Sys2Proof.Machine.execTsigTile o s
  | .tsigAcc o => Sys2Proof.Machine.execTsigAcc o s
  | .tschk o => Sys2Proof.Machine.execTschk o s
  | .sliceArrival r run opB q data fail => Sys2Proof.Machine.execSliceArrival r run opB q data fail s
  | .dld o => Sys2Proof.Machine.execDld o s
  | .dst o => Sys2Proof.Machine.execDst o s
  | .dpt o => Sys2Proof.Machine.execDpt o s
  | .dset o => Sys2Proof.Machine.execDset o s
  | .dadd o => Sys2Proof.Machine.execDadd o s
  | .dsub o => Sys2Proof.Machine.execDsub o s
  | .dmul o => Sys2Proof.Machine.execDmul o s
  | .dmax o => Sys2Proof.Machine.execDmax o s
  | .dmin o => Sys2Proof.Machine.execDmin o s
  | .daff o => Sys2Proof.Machine.execDaff o s
  | .dfn o => Sys2Proof.Machine.execDfn o s
  | .dmix o => Sys2Proof.Machine.execDmix o s
  | .dcond o => Sys2Proof.Machine.execDcond o s
  | .dtagNew o => Sys2Proof.Machine.execDtagNew o s
  | .dtagSet o => Sys2Proof.Machine.execDtagSet o s
  | .dtagOr o => Sys2Proof.Machine.execDtagOr o s
  | .dtgrd o => Sys2Proof.Machine.execDtgrd o s
  | .dmom o => Sys2Proof.Machine.execDmom o s
  | .dqnt o => Sys2Proof.Machine.execDqnt o s
  | .dcdf o => Sys2Proof.Machine.execDcdf o s
  | .rput o => Sys2Proof.Machine.execRput o s
  | .rget o => Sys2Proof.Machine.execRget o s
  | .rred o => Sys2Proof.Machine.execRred o s
  | .ratom o => Sys2Proof.Machine.execRatom o s
  | .rmskRd o => Sys2Proof.Machine.execRmskRd o s
  | .rmskArm o => Sys2Proof.Machine.execRmskArm o s
  | .rmskDisarm o => Sys2Proof.Machine.execRmskDisarm o s
  | .vrdcm o => Sys2Proof.Machine.execVrdcm o s
  | .tkrd o => Sys2Proof.Machine.execTkrd o s
  | .tkrsv o => Sys2Proof.Machine.execTkrsv o s
  | .cue o => Sys2Proof.Machine.execCue o s
  | .blst o => Sys2Proof.Machine.execBlst o s
  | .trap o => Sys2Proof.Machine.execTrap o s
  | .syscNotify o => Sys2Proof.Machine.execSyscNotify o s
  | .syscFrec o => Sys2Proof.Machine.execSyscFrec o s
  | .syscBrec o => Sys2Proof.Machine.execSyscBrec o s
  | .syscAttest o => Sys2Proof.Machine.execSyscAttest o s
  | .syscReply r => Sys2Proof.Machine.execSyscReply r s
  | .wakeStore queue size aligned value => Sys2Proof.Machine.execWakeStore queue size aligned value s
  | .launch queue => Sys2Proof.Machine.execLaunch queue s
  | .pad queue => Sys2Proof.Machine.execPad queue s
  | .controlSuspend queue => Sys2Proof.Machine.execControlSuspend queue s
  | .controlResume queue => Sys2Proof.Machine.execControlResume queue s
  | .controlTerminate queue => Sys2Proof.Machine.execControlTerminate queue s
  | .controlClearBootfail queue => Sys2Proof.Machine.execControlClearBootfail queue s
  | .controlAttest queue => Sys2Proof.Machine.execControlAttest queue s
  | .resreq queue => Sys2Proof.Machine.execResreq queue s
  | .phaseChange queue => Sys2Proof.Machine.execPhaseChange queue s
  | .crewDispatch die => Sys2Proof.Machine.execCrewDispatch die s
  | .crewSave crew => Sys2Proof.Machine.execCrewSave crew s
  | .crewEnd crew => Sys2Proof.Machine.execCrewEnd crew s
  | .endStoreTimeout region => Sys2Proof.Machine.execEndStoreTimeout region s
  | .regionTerminated region => Sys2Proof.Machine.execRegionTerminated region s
  | .coreBucketHold core => Sys2Proof.Machine.execCoreBucketHold core s
  | .slateTick c0 c1 c2 c3 => Sys2Proof.Machine.execSlateTick c0 c1 c2 c3 s
  | .gafferInterval uncoreMw => Sys2Proof.Machine.execGafferInterval uncoreMw s
  | .cueMessage m => Sys2Proof.Machine.execCueMessage m s
  | .replayTimeout h => Sys2Proof.Machine.execReplayTimeout h s
  | .linkTimeout port => Sys2Proof.Machine.execLinkTimeout port s
  | .idleFlit port => Sys2Proof.Machine.execIdleFlit port s
  | .linkAutoBringup port => Sys2Proof.Machine.execLinkAutoBringup port s
  | .linkBringupComplete port offer => Sys2Proof.Machine.execLinkBringupComplete port offer s
  | .linkRekey x => Sys2Proof.Machine.execLinkRekey x s
  | .flitReceive port tagOk p => Sys2Proof.Machine.execFlitReceive port tagOk p s
  | .peerLostNotice pkg => Sys2Proof.Machine.execPeerLostNotice pkg s
  | .lossyHeader h => Sys2Proof.Machine.execLossyHeader h s
  | .lossyBlock id block data => Sys2Proof.Machine.execLossyBlock id block data s
  | .lossyDeadline id => Sys2Proof.Machine.execLossyDeadline id s
  | .transferComplete incoming id => Sys2Proof.Machine.execTransferComplete incoming id s
  | .reliableResend id => Sys2Proof.Machine.execReliableResend id s
  | .transferTimeout id => Sys2Proof.Machine.execTransferTimeout id s
  | .remoteAtomic a => Sys2Proof.Machine.execRemoteAtomic a s
  | .remoteReadRequest id src addr len => Sys2Proof.Machine.execRemoteReadRequest id src addr len s
  | .fabricEngineFlit id => Sys2Proof.Machine.execFabricEngineFlit id s
  | .launchQueueReset queue => Sys2Proof.Machine.execLaunchQueueReset queue s
  | .launchQueueControlWrite queue value => Sys2Proof.Machine.execLaunchQueueControlWrite queue value s
  | .gcfgWrite value => Sys2Proof.Machine.execGcfgWrite value s
  | .ggrpWrite value => Sys2Proof.Machine.execGgrpWrite value s
  | .faultResolved h => Sys2Proof.Machine.execFaultResolved h s
  | .ownershipToHost va => Sys2Proof.Machine.execOwnershipToHost va s
  | .ownershipToDevice va => Sys2Proof.Machine.execOwnershipToDevice va s
  | .hostCxlAccess pa store data => Sys2Proof.Machine.execHostCxlAccess pa store data s
  | .tlbinv value => Sys2Proof.Machine.execTlbinv value s
  | .linkStart port => Sys2Proof.Machine.execLinkStart port s
  | .lnktoWrite value => Sys2Proof.Machine.execLnktoWrite value s
  | .routingEntryWrite bank entry value => Sys2Proof.Machine.execRoutingEntryWrite bank entry value s
  | .frctlInjWrite bank => Sys2Proof.Machine.execFrctlInjWrite bank s
  | .frctlValidWrite bank value => Sys2Proof.Machine.execFrctlValidWrite bank value s
  | .eventQueueControlWrite value => Sys2Proof.Machine.execEventQueueControlWrite value s
  | .debugStopArm value => Sys2Proof.Machine.execDebugStopArm value s
  | .haltEnable value => Sys2Proof.Machine.execHaltEnable value s
  | .reelStart value => Sys2Proof.Machine.execReelStart value s
  | .takeStart value => Sys2Proof.Machine.execTakeStart value s
  | .histogramClear quadrant counter => Sys2Proof.Machine.execHistogramClear quadrant counter s
  | .registerWrite who w => Sys2Proof.Machine.execRegisterWrite who w s
  | .spuriousWakeUp r => Sys2Proof.Machine.execSpuriousWakeUp r s
  | .faultResolutionFailed h => Sys2Proof.Machine.execFaultResolutionFailed h s
  | .powerLoss slotWrite recordWrite => Sys2Proof.Machine.execPowerLoss slotWrite recordWrite s
  | .nop => Sys2Proof.Machine.execNop s
  | .waitsp => Sys2Proof.Machine.execWaitsp s
  | .qflush => Sys2Proof.Machine.execQflush s
  | .stepw => Sys2Proof.Machine.execStepw s
  | .phase => Sys2Proof.Machine.execPhase s
  | .halt => Sys2Proof.Machine.execHalt s
  | .eret => Sys2Proof.Machine.execEret s
  | .tlbinvComplete => Sys2Proof.Machine.execTlbinvComplete s
  | .frctlRerrClear => Sys2Proof.Machine.execFrctlRerrClear s
  | .debugStop => Sys2Proof.Machine.execDebugStop s
  | .lanternMismatch => Sys2Proof.Machine.execLanternMismatch s
  | .powerOnReset => Sys2Proof.Machine.execPowerOnReset s

end Sys2Proof.Machine
end

