-- ==== Sys2Proof/Machine/Sched.lean ====
section
/-! DEFINITION. What may happen next: the words that paths in clauses hand off, and the enabled steps of the package's agents,
among which a free choice picks (log 10); and the word that a path hands off. -/

namespace Sys2Proof.Machine

/-- The instruction that a path hands off next: the word at its index, decoded (R99, R107). -/
def State.nextWord (s : State) (r : PathRef) : Option Instr :=
  match s.path? r with
  | none => none
  | some p => (p.words[p.idx]?).bind (fun w => decodeWord (hdrPair p.hdr p.idx) w)

/-- A word that decodes to no instruction, where a path resumed inside a clause without static checks (R351): the
illegal-instruction trap; past the clause's words the path leaves it. DEDUCED (log 40). One whose words a fault has kept away fetches
them (R364). -/
def State.badWord (s : State) (r : PathRef) : State :=
  match s.path? r with
  | none => s
  | some p =>
    match p.words[p.idx]? with
    | none => if p.words.isEmpty then s.fetchInside r else s.endClause r p.nextClause
    | some w => s.takeTrap r { clauseTrap s.slate 1 0 w p.idx w with resume := .word }

/-- What is done next: a path hands off a word, or an agent takes a step. -/
inductive Choice where
  | word (r : PathRef)
  | event (i : Instr)
  deriving DecidableEq, Repr

/-- May a crew's words be handed off: its region runs, or it runs on to a save point (R56)? -/
def State.wordsRun (s : State) (c : Crew) : Bool :=
  match c.state, s.region? c.region with
  | .resident, some g => g.state == .running
  | .saving _, some g => g.state == .running || g.state == .suspended
  | _, _ => false

/-- Is a path inside a clause with a word to hand off? -/
def Path.handing (p : Path) : Bool := p.inside && (match p.wait with | .none | .room _ => true | _ => false)

/-- May a path issue again an instruction that a pre-emption stopped (R58): its crew runs, and it stands where it was
restored, at its JOIN, or with a trap that is held for the other peer's handler (R354), too? -/
def Crew.mayReissue (c : Crew) (p : Path) : Bool :=
  !p.recs.isEmpty && p.cont.isNone && c.state == .resident &&
  (match p.wait with | .none | .atJoin | .held _ => true | _ => false)

/-- A path that has such an instruction issues it ahead of where it stands (R58). -/
def State.reissue (s : State) (r : PathRef) : State :=
  match s.crew? r.crew with
  | none => s
  | some c =>
    match c.path? r.sel with
    | none => s
    | some p => if c.mayReissue p then s.updPath r (fun q => q.reissue c.live) else s

/-- What a path at a clause boundary may do: its clause issues when its core's schedulers choose it (R45, R46, R60), and a
fault, a trap or an entry wait comes as the path finds it. -/
def State.issueChoices (s : State) (c : Crew) (r : PathRef) : List Choice :=
  match s.ready r with
  | .idle | .scoreboard | .tokens | .coreHeld => []
  | .go _ _ => if (s.issuer c.core).any (fun x => x.1 == r) then [.event (.clauseIssue r)] else []
  | _ => [.event (.clauseIssue r)]

/-- Is an atomic or a slice fetch of a path late, or without a route (R263, R311, R315)? -/
def State.waitLate (s : State) (c : Crew) (p : Path) : Bool :=
  match p.wait, p.here with
  | .ratom a _ _ pkg, _ => !s.atomPerformed a.id && (s.lateCause pkg a.since).isSome
  | .slices run, some i =>
    (match productOf i with
     | some (o, _) => (c.awaited o run).any (fun k => (s.lateCause k run.since).isSome)
     | none => false)
  | _, _ => false

/-- Is the end of a wait due: its count has expired, its status is found, its batches have ended, its reply is late? -/
def State.waitDue (s : State) (c : Crew) (r : PathRef) (p : Path) : List Choice :=
  (match p.wait with
   | .waitc _ _ l target timeout t0 got =>
     let w := match got with | some x => x.toNat | none => s.counterAt c.core l
     if (waitcStatus w target timeout s.now t0.toNat c.saving).isSome then [.event (.waitcTimeout r)] else []
   | .waitb bs timed =>
     if bs.all (fun b => s.batchEnded c.id b) ||
        (match timed with
         | some (_, timeout, t0) => (timeout != 0 && decide (t0.toNat + timeout.toNat ≤ s.now)) || c.saving
         | none => false) then [.event (.waitbTimeout r)] else []
   | .sysc _ _ _ _ since => if since + syscBound ≤ s.now then [.event (.syscReply r)] else []
   | .fault _ t => if t + Config.replayBound < s.now then [.event (.replayTimeout (.path r))] else []
   | .ratom a _ _ _ => if s.waitLate c p then [.event (.transferTimeout a.id)] else []
   | .slices run => if s.waitLate c p then [.event (.transferTimeout run.id)] else []
   | .paused _ (some t) => if t ≤ s.cycles then [.event (.pauseCountExpiry r)] else []
   | _ => []) ++
  (match p.wait with
   | .paused _ _ => if p.mayYield then [.event (.spuriousWakeUp r)] else []
   | _ => []) ++
  (match p.lowUntil with
   | some t => if t ≤ s.cycles then [.event (.pauseCountExpiry r)] else []
   | none => [])

/-- Steps that a path's wait may take: a reply, a resend, a spurious wake-up (R47). -/
def waitChoices (r : PathRef) (p : Path) : List Choice :=
  match p.wait with
  | .sysc _ _ _ _ _ => [.event (.syscReply r)]
  | .ratom a _ _ _ => [.event (.reliableResend a.id)]
  | .slices run => [.event (.reliableResend run.id)]
  | .paused _ _ => [.event (.spuriousWakeUp r)]
  | _ => []

/-- Steps of a crew and its paths. -/
def State.crewChoices (s : State) (c : Crew) : List Choice :=
  c.allPaths.flatMap (fun q =>
    let r : PathRef := { crew := c.id, sel := q.1 }
    (if s.wordsRun c && (q.2.handing || c.mayReissue q.2) then [Choice.word r] else []) ++
    (List.range q.2.flights.length).map (fun n => Choice.event (.wordComplete r n)) ++
    s.issueChoices c r ++ waitChoices r q.2) ++
  (if c.saveReady then [.event (.crewSave c.id)] else []) ++
  (if s.crewDone c then [.event (.crewEnd c.id)] else [])

/-- Steps of copies and transfers of this package. -/
def State.copyChoices (s : State) (c : Copy) : List Choice :=
  match c.state with
  | .active =>
    if c.kind.isDolly then (if c.whole then [.event (.copyComplete c.id)] else [.event (.dollyUnit c.id)])
    else if s.mayFlit c then [.event (.fabricEngineFlit c.id)] else []
  | .sent => [.event (.reliableResend c.id), .event (.transferComplete false c.id)]
  | _ => []

/-- Word of failed transfers that may be sent again (R311). -/
def State.cancelChoices (s : State) : List Choice := s.fab.cancels.map (fun q => .event (.reliableResend q.2.id))

/-- What is due of copies and transfers of this package (R215, R311): one that is held on a fault fails with its transfer
timeout too. -/
def State.copyDue (s : State) (c : Copy) : List Choice :=
  (match c.state with
  | .held _ t => if t + Config.replayBound < s.now then [.event (.copyHoldTimeout c.id)] else []
  | _ => []) ++
  (match c.kind.xfer with
   | some (d, _, _) =>
     if c.running && (s.lateCause d.pkg c.since).isSome then [.event (.transferTimeout c.id)] else []
   | none => [])

/-- Steps of transfers into this package. -/
def State.incomingChoices (s : State) (x : Incoming) : List Choice :=
  if x.finished then []
  else
    (if s.mayFinish x && x.hold.isNone then [.event (.transferComplete true (xferKey x.hdr))] else []) ++
    (if x.hdr.cls = .lossy ∧ !x.accepted ∧ x.hold.isNone then [.event (.lossyHeader x.hdr)] else [])

/-- What is due of transfers into this package (R311, R312). The deadline is not put off by a block that a fault holds; once its
zero fill is held by one, that goes on when the fault is resolved. -/
def State.incomingDue (s : State) (x : Incoming) : List Choice :=
  let k := xferKey x.hdr
  if x.finished then []
  else
    (if x.hdr.cls = .lossy ∧ x.accepted ∧ x.hdr.deadline.toNat ≤ s.now ∧ !x.whole ∧
        x.hold.all (fun q => decide (q.2 < x.hdr.deadline.toNat)) then [.event (.lossyDeadline k)] else []) ++
    (if (x.hdr.cls ≠ .lossy ∨ !x.accepted) ∧ x.since + Config.replayBound < s.now then [.event (.transferTimeout k)] else []) ++
    (match x.hold with
     | some (_, t) => if t + Config.replayBound < s.now then [.event (.replayTimeout (.incoming k))] else []
     | none => [])

/-- Steps of regions. -/
def State.regionChoices (s : State) (g : Region) : List Choice :=
  (if g.spawnRing.isEmpty then [] else [Choice.event (.spawnRingDrain g.id)]) ++
  ((g.laneRing.map (fun t => t.cluster)).dedup).map (fun k => Choice.event (.laneTaskRefill g.id k)) ++
  (if s.canEnd g then [.event (.regionTerminated g.id)] else [])

/-- A held store of a front end is dropped when its bound has passed (R27). -/
def State.regionDue (s : State) (g : Region) : List Choice :=
  match g.ending with
  | some e => if e.fault.isSome && decide (e.since + Config.replayBound < s.now) then [.event (.endStoreTimeout g.id)] else []
  | none => []

/-- Steps of a launch queue: the kind of the packet at hand, or the halt that its error gives (R373). -/
def State.queueChoices (s : State) (k : Nat) : List Choice :=
  match s.resubmit.packet k with
  | .error none => []
  | .error (some _) => [.event (.pad k)]
  | .ok p =>
    if p.ty = 0 then [.event (.pad k)]
    else if p.ty = 1 then [.event (if s.mayLaunch k p then .launch k else .phaseChange k)]
    else if p.ty = 3 then [.event (.resreq k)]
    else if p.op = 1 then [.event (.controlSuspend k)]
    else if p.op = 2 then [.event (.controlResume k)]
    else if p.op = 3 then [.event (.controlTerminate k)]
    else if p.op = 4 then [.event (.controlClearBootfail k)]
    else [.event (.controlAttest k)]

/-- Partial groups of a cluster that have been quiet (R37). -/
def State.clusterDue (s : State) (k : Nat) : List Choice :=
  (((s.cluster k).fifo.map (fun t => (t.region, t.entry))).dedup).filterMap (fun x =>
    if ((s.cluster k).group x.1 x.2).all (fun t => decide (t.cycle + 2048 ≤ s.cycles)) then
      some (Choice.event (.partialCastTimeout k x.1 x.2)) else none)

/-- What is due on a core: barriers that time out, a hold, a clause whose path has been Eligible for nearly 256 cycles
(R45, R51, R327). -/
def State.coreDue (s : State) (k : Nat) : List Choice :=
  (s.core k).barriers.filterMap (fun b =>
    match b.2.first with
    | some t =>
      if b.2.timeout ≠ 0 ∧ b.2.pending.isNone ∧ t + b.2.timeout.toNat ≤ s.now ∧ (!b.2.expired ∨ !(s.waitersOf k b.1).isEmpty) then
        some (Choice.event (.barrierTimeout k b.1)) else none
    | none => none) ++
  (if (s.core k).hold.isNone && !(s.starvedOn k).isEmpty then [.event (.coreBucketHold k)] else []) ++
  (if (List.range 4).any (fun q => (s.rivals k q).any (fun x => decide (252 ≤ x.age))) then
     ((s.issuer k).toList).map (fun x => Choice.event (.clauseIssue x.1)) else [])

/-- What the other end of a port offers in the n-th exchange (R299). -/
def peerOffer (k n : Nat) : KeyOffer := { key := Config.peerKey k n, sig := Config.peerSig k n, cert := Config.peerCert k n }

/-- Steps of a port (R303): the bring-up under way ends, with what the other end offers. -/
def State.portChoices (s : State) (k : Nat) : List Choice :=
  let n := (s.port k).attempts
  if (s.port k).bringing then
    [.event (.linkBringupComplete k (if Config.lanesTrain k n then some (peerOffer k n) else none))]
  else []

/-- What is due at a port (R300, R302, R303). -/
def State.portDue (s : State) (k : Nat) : List Choice :=
  let q := s.port k
  let n := q.attempts + 1
  (if q.up && (decide (q.lastIn + s.fab.lnkto < s.now) || decide (q.lastAck + s.fab.lnkto < s.now)) then [.event (.linkTimeout k)] else []) ++
  (if q.up && decide (q.lastOut + 1000 ≤ s.now) && q.room 1 then [.event (.idleFlit k)] else []) ++
  (if q.rekeyDue then [.event (.linkRekey { port := k, offer := peerOffer k n })] else []) ++
  (if s.linked k && q.auto && q.down && !q.up && !q.bringing && decide (q.retryAt ≤ s.now) then [.event (.linkAutoBringup k)] else [])

/-- Time goes on, or the armed debug stop comes at the end of its tick (R381). -/
def State.timeChoice (s : State) : Choice :=
  if s.dbg.stop ∧ s.slate = s.dbg.dbgstop then .event .debugStop
  else
    let c (d : Nat) : Nat := Config.railCurrent s.now d
    .event (.slateTick (c 0) (c 1) (c 2) (c 3))

/-- All that may happen next besides time. -/
def State.choices (s : State) : List Choice :=
  s.crews.flatMap s.crewChoices ++ s.copies.flatMap s.copyChoices ++ s.fab.incoming.flatMap s.incomingChoices ++
  s.cancelChoices ++ s.fab.jobs.map (fun j => Choice.event (.fabricEngineFlit j.id)) ++ s.regions.flatMap s.regionChoices ++
  (List.range 64).flatMap s.queueChoices ++ (List.range 64).flatMap s.portChoices ++
  ((List.range 4).filter (fun d => !(s.candidates d).isEmpty)).map (fun d => Choice.event (.crewDispatch d)) ++
  (if s.firm.tlbinv.isSome then [.event .tlbinvComplete] else [])

/-- What the rules put at a time that has come: it is done before anything else, time included (log 10). -/
def State.due (s : State) : List Choice :=
  s.crews.flatMap (fun c => c.allPaths.flatMap (fun q => s.waitDue c { crew := c.id, sel := q.1 } q.2)) ++
  s.copies.flatMap s.copyDue ++ s.fab.incoming.flatMap s.incomingDue ++ s.regions.flatMap s.regionDue ++
  (List.range 64).flatMap s.clusterDue ++ (List.range 256).flatMap s.coreDue ++ (List.range 64).flatMap s.portDue

/-- What comes next: what is due, else the pick of the free choice, time among its choices. -/
def State.pick (s : State) : Choice :=
  match s.due with
  | x :: _ => x
  | [] =>
    let l := s.choices
    l.getD (Config.freeChoice s.free % (l.length + 1)) s.timeChoice

/-- Take the step after which no path is in focus. -/
def unfocus (o : Host.Outcome State Fault Refusal) : Host.Outcome State Fault Refusal :=
  match o with
  | .next t => .next { t with focus := none }
  | x => x

/-- The counter of free choices goes on with every step. -/
def State.counted (s : State) : State := { s with free := s.free + 1 }

/-! ### Placing a word (how a program's word is put where the next step takes it, log 12) -/

/-- The header of a clause of one word of the general class, without entry waits (R101). -/
def wordHeader : Word := BitVec.ofNat 64 (14 * 2 ^ 60 + 7 * 2 ^ 56 + 127 * 2 ^ 27 + 127 * 2 ^ 20)

/-- Views that map some registers of every kind within a window of 64 KiB. -/
def wordViews : Views :=
  { v := 0x00400000, w := 0x00100040, t := 0x00040060, a := 0x00040080, d := 0x000400C0 }

/-- A region for a crew that runs one word. -/
def wordRegion (id : Nat) : Region :=
  newRegion id
    { entry := 0, karg := 0, views := wordViews, lockq := 0, toksh := 0, banks := 16, win := 16, maxc := 0, clmask := 0,
      diemask := 0, spillb := 0, spills := 0, fdom := 0, stepg := 0, ovr := 0, fpol := 0, prio := 0, handler := 0,
      ssrb := 0, ssrn := 0, ltrb := 0, ltrn := 0, taga := 0, compa := 0, wakea := 0, wakev := 0 } none none 0

/-- A crew that stands inside a clause of one word. -/
def wordCrew (id region : Nat) (w : Word) (stamp : Nat) : Crew :=
  let c := startCrew id (wordRegion region) 0 { quad := 0, slot := 0, unit := 0 } 0 0 Config.creww none [] stamp
  c.updPath .single (fun p => { p with hdr := wordHeader, words := [w], inside := true })

end Sys2Proof.Machine
end

