-- ==== Sys2Proof/Machine/Step.lean ====
section
/-! DEFINITION. One step of the package: the word of the path in focus, else the first step that waits in the inbox, else a
step of an agent by a free choice (log 10); and how a word is placed where the next step takes it. -/

namespace Sys2Proof.Machine

/-- Hand off the next word of a path, after a restore first those that the pre-emption stopped (R58). -/
def runPath (r : PathRef) (s0 : State) : Host.Outcome State Fault Refusal :=
  let s := s0.reissue r
  match s.nextWord r with
  | some i => unfocus (exec i { s with focus := some r })
  | none => .next { s.badWord r with focus := none }

/-- A step of a package that runs. -/
def stepRunning (s : State) : Host.Outcome State Fault Refusal :=
  match s.focus with
  | some r => runPath r s
  | none =>
    match s.inbox with
    | i :: rest => exec i { s with inbox := rest }
    | [] =>
      match s.pick with
      | .word r => runPath r s
      | .event i => exec i s

/-- One step. A package that has stopped does nothing before its power-on reset (R381). -/
def step (s : State) : Host.Outcome State Fault Refusal :=
  if s.dbg.stopped then (if s.inbox.contains .powerOnReset then exec .powerOnReset s.counted else .next s)
  else stepRunning s.counted

/-- A word where the next step takes it: a crew of its own stands inside a clause of that word, in focus (log 12). -/
def State.withFetchWord (s : State) (nbits w : Nat) : State :=
  { s with
    dbg := { s.dbg with stopped := false }
    regions := s.regions ++ [wordRegion (s.nextId + 1)]
    crews := s.crews ++ [wordCrew s.nextId (s.nextId + 1) (BitVec.ofNat 64 (w % 2 ^ nbits)) s.stamp]
    focus := some { crew := s.nextId, sel := .single }
    nextId := s.nextId + 2
    stamp := s.stamp + 1 }

end Sys2Proof.Machine
end

