-- ==== Sys2Proof/Safety.lean ====
section
/-! DEFINITION. The terms in which claims are stated: the word that an engine takes, what a word changes and leaves alone, and the
invariant of memory. -/

namespace Sys2Proof.Machine

/-- What the word of the path in focus sees, when its engine takes it: it works under the crew's own views (R160), no earlier
word of the path holds it back (R72), and it passes the dynamic checks (R107). -/
def State.taken (s : State) (i : Instr) : Option Env :=
  match s.env? i with
  | none => none
  | some e =>
    if e.blocked i || e.own.isSome then none
    else
      match e.check i with
      | some _ => none
      | none => some e

/-- Crew d agrees with crew c in everything but its paths and the name of its handler path, which change as a path goes
on. -/
def Crew.agrees (c d : Crew) : Prop := d = { c with paths := d.paths, handler := d.handler }

/-- Crew d is crew c with the waits of its paths changed, and nothing else of them: a write that a path watches wakes it. -/
def Crew.sameButWaits (c d : Crew) : Prop :=
  d = { c with paths := d.paths } ∧
    ∀ sel, match c.path? sel, d.path? sel with
      | some p, some q => q = { p with wait := q.wait }
      | none, none => True
      | _, _ => False

/-- The paths of a crew but for the one named, and its handler path, are as they were. -/
def Crew.othersStay (c d : Crew) (sel : PathSel) : Prop := d.handler = c.handler ∧ ∀ k, k ≠ sel → d.path? k = c.path? k

/-- Nothing but one crew, and the counter of order, differs between two states. -/
def State.onlyCrew (s t : State) (id : Nat) : Prop :=
  t = { s with crews := t.crews, stamp := t.stamp } ∧ ∀ k, k ≠ id → t.crew? k = s.crew? k

/-- A word leaves its crew as d; nothing else differs but the counters of order and identity. -/
def State.leavesCrew (s t : State) (id : Nat) (d : Crew) : Prop :=
  t = { s with crews := t.crews, stamp := t.stamp, nextId := t.nextId } ∧ (∀ k, k ≠ id → t.crew? k = s.crew? k) ∧
    t.crew? id = some d

/-- One crew becomes d, paths and handler path included; nothing else differs between two states. -/
def State.crewBecomes (s t : State) (id : Nat) (d : Crew) : Prop :=
  t = { s with crews := t.crews } ∧ (∀ k, k ≠ id → t.crew? k = s.crew? k) ∧ t.crew? id = some d

/-- A word completes: its path goes on after it (Env.finish) from a state in which its crew is exactly what f gives, and which is
otherwise the state that the word found. -/
def CrewEffect (i : Instr) (s : State) (f : Env → Crew) : Prop :=
  ∀ e, s.taken i = some e → ∃ t, exec i s = .next (e.finish i t) ∧ s.crewBecomes t e.r.crew (f e)

/-- A word completes on the operands that p admits: the path goes on after it from the state that f gives. -/
def Completes (i : Instr) (s : State) (p : Env → Prop) (f : Env → State) : Prop :=
  ∀ e, s.taken i = some e → p e → exec i s = .next (e.finish i (f e))

/-- The memory of the package and the image of each core have their canonical form (R199). -/
def State.memoryOk (s : State) : Prop := Memory.wf s.g = true ∧ ∀ c ∈ s.cores, Memory.wf c.img = true

/-- The window of each crew has its canonical form (R67). -/
def State.windowsOk (s : State) : Prop := ∀ c ∈ s.crews, Memory.wf c.urs = true

/-- Every crew keeps everything but the waits of its paths. -/
def State.keepsCrews (s t : State) : Prop := ∀ k c, s.crew? k = some c → ∃ d, t.crew? k = some d ∧ c.sameButWaits d

/-! ### Sources and results in the terms of the rules -/

/-- The three sources of a scalar word as 64-bit values: a scalar as the path reads it, or a literal (R138). -/
def Env.src1 (e : Env) (o : FieldsR) : Word := scalarSrc e.v o 1 o.sa
def Env.src2 (e : Env) (o : FieldsR) : Word := scalarSrc e.v o 2 o.sb
def Env.src3 (e : Env) (o : FieldsR) : Word := scalarSrc e.v o 3 o.sc

/-- A 64-bit value taken in a scalar TYPE: whole, or its low half extended by the type's sign (R158). -/
def narrowed (ty : BitVec 3) (x : Word) : Word :=
  if ty.toNat ≤ 1 then x else if tySigned ty then (x.setWidth 32).signExtend 64 else (x.setWidth 32).setWidth 64

/-- The low half of a value taken without sign, or all of it for a 64-bit type. -/
def unsignedPart (ty : BitVec 3) (x : Word) : Word := if ty.toNat ≤ 1 then x else (x.setWidth 32).setWidth 64
/-- The low half of a value taken with its sign, or all of it for a 64-bit type. -/
def signedPart (ty : BitVec 3) (x : Word) : Word := if ty.toNat ≤ 1 then x else (x.setWidth 32).signExtend 64

/-- A scalar operand as the integer that its TYPE makes of it (R158). -/
def operand (ty : BitVec 3) (x : Word) : Int := opnd (tySigned ty) (scalarBits ty) x

/-- What a lane-wise word leaves of its crew: each active lane's elements, and the flags (R164). -/
def Env.lanewise (e : Env) (o : FieldsR) (el : Elem) (f : LaneFn) : Crew :=
  e.c.putVals el o.dst.toNat (laneVals el (activeMask e.v e.p.side.exm o.pred) (fun i j =>
    f (srcElem e.v o 1 o.sa el i j) (srcElem e.v o 2 o.sb el i j) (srcElem e.v o 3 o.sc el i j)))

/-- What a word leaves of its crew that writes g in lane i, element j of the active lanes. -/
def Env.lanesOf (e : Env) (el : Elem) (num : Nat) (pred : BitVec 3) (g : Nat → Nat → Nat × Flags) : Crew :=
  e.c.putVals el num (laneVals el (activeMask e.v e.p.side.exm pred) g)

/-- The active lanes of a word of family R. -/
def Env.active (e : Env) (o : FieldsR) : Mask := activeMask e.v e.p.side.exm o.pred

/-- What a reader of distributions leaves: f's numbers in consecutive vectors of the active lanes, and their flags
(R287 to R289). -/
def Env.readOff (e : Env) (o : FieldsR) (f : Nat → List Flagged) : Crew :=
  let rs := (maskLanes (e.active o)).map (fun i => (i, f i))
  (rs.foldl (fun d q => q.2.zipIdx.foldl (fun d x => d.wrElem .vec (o.dst.toNat + x.2) q.1 4 0 x.1.1) d) e.c).raise
    (orFlags (rs.flatMap (fun q => q.2.map (fun x => x.2))))

/-- What a word that makes distributions leaves: an element in each active lane, the flags, and the tag when a lane is
active (R269 to R273). -/
def Env.distOf (e : Env) (o : FieldsR) (tag : Option (BitVec 32)) (f : Nat → LaneRes) : Crew :=
  let rs := (maskLanes (e.active o)).map (fun i => (i, laneEnd (f i)))
  if rs.isEmpty then e.c
  else
    let d := (rs.foldl (fun d q => d.wrNat .dist o.dst.toNat (q.1 * 32) 32 (elementNat q.2.1)) e.c).raise
      (orFlags (rs.map (fun q => q.2.2)))
    match tag with
    | some t => d.wtag o.dst.toNat t
    | none => d

/-- The bytes of memory that a core's plain loads read (R199). -/
def State.plainByte (s : State) (core pa : Nat) : Byte := s.readLoc core false (.mem pa)

/-- A path is at the clause at pc, ready to issue it. -/
def Path.readyAt (p : Path) (pc : Word) : Prop := p.side.pc = pc ∧ p.inside = false ∧ p.wait = .none

/-- The running side of a path stands with the end of its clause at its JOIN; z is a side of an outer divergence that is not at its
own. -/
def Env.joinsUnder (e : Env) (f g : Frame) (l : List Frame) (z : Side) : Prop :=
  e.p.side.frames = f :: g :: l ∧ f.join = e.p.nextClause ∧ z.inDiv f.div = false ∧ z.reached = false ∧
    ∀ h m, z.frames = h :: m → h.join ≠ z.pc

/-- Where a path that waited as p stands in s once its word has ended (R98, R99): at the next word of its clause, or past its last
word at the next clause, when that is not a join of its side. -/
def State.wentOn (s : State) (r : PathRef) (p : Path) : Prop :=
  (p.cont = none → p.idx < hdrCount p.hdr → ∃ q, s.path? r = some q ∧ q.idx = p.idx + 1 ∧ q.side = p.side ∧
    q.words = p.words ∧ q.inside = p.inside ∧ q.wait = .none) ∧
  (p.cont = none → ¬ p.idx < hdrCount p.hdr → (∀ f l, p.side.frames = f :: l → f.join ≠ p.nextClause) →
    ∃ q, s.path? r = some q ∧ q.readyAt p.nextClause ∧ q.side = { p.side with pc := p.nextClause })

end Sys2Proof.Machine
end

