-- ==== Sys2Proof/Certificates/Slice0/Obligations.lean ====
section
/-! DEFINITION. The statements for the provers. Each says what a rule of the spec makes a word, an event or the machine do. -/

section Statements

open Sys2Proof Sys2Proof.Machine

/-! ### The step, decoding, reset, memory -/

/-- A step hands off the decoded word of the path in focus, or of the path that the free choice names, and runs an event that waits,
else the first that is due, else the one that the free choice names (R99, R107; the order is the model's choice, log 10). A path
that a pre-emption stopped issues the recorded instruction first (R58); with none recorded nothing is issued again. -/
def Obligations.StepRunsTheDecodedWord : Prop :=
  (∀ (s : State) (r : PathRef) (p : Path) (w : Word) (i : Instr),
    let u := s.counted.reissue r
    s.dbg.stopped = false → s.focus = some r → u.path? r = some p → p.words[p.idx]? = some w →
    decodeWord (hdrPair p.hdr p.idx) w = some i →
    step s = unfocus (exec i u) ∧ ∀ t, exec i u = .next t → step s = .next { t with focus := none }) ∧
  (∀ (s : State) (r : PathRef) (p : Path), s.path? r = some p → p.recs = [] → s.reissue r = s) ∧
  (∀ (s : State) (i : Instr) (l : List Instr),
    s.dbg.stopped = false → s.focus = none → s.inbox = i :: l → step s = exec i { s.counted with inbox := l }) ∧
  (∀ s : State, s.dbg.stopped = false → s.focus = none → s.inbox = [] →
    step s = (match s.counted.pick with
      | .word r =>
        (match (s.counted.reissue r).nextWord r with
         | some i => unfocus (exec i { s.counted.reissue r with focus := some r })
         | none => .next { (s.counted.reissue r).badWord r with focus := none })
      | .event i => exec i s.counted)) ∧
  (∀ (s : State) (x : Choice) (l : List Choice), s.due = x :: l → s.pick = x) ∧
  (∀ s : State, s.due = [] → s.pick ∈ s.choices ∨ s.pick = s.timeChoice) ∧
  (∀ (s : State) (r : PathRef) (p : Path) (w : Word), s.path? r = some p → p.words[p.idx]? = some w →
    s.nextWord r = decodeWord (hdrPair p.hdr p.idx) w)

/-- Words that the spec prints decode to the instructions they are printed for. -/
def Obligations.PrintedWordsDecode : Prop :=
  decodeWord false 0 = some .nop ∧
  decodeWord false 0xB480000000000000 = some .eret ∧
  decodeWord false 0xB4C0000000000000 = some .halt ∧
  (∃ o : FieldsS, decodeWord false 0xB400000001C00015 = some (.trap o) ∧ o.ss = 7 ∧ o.imm = 0x15) ∧
  (∃ o : FieldsR, decodeWord false 0x9100040303000000 = some (.dadd o) ∧ o.dst = 4 ∧ o.sa = 3 ∧ o.sb = 3) ∧
  (∃ o : FieldsR, decodeWord false 0x9400140300002700 = some (.dqnt o) ∧ o.dst = 20 ∧ o.sa = 3 ∧ o.bv = 1 ∧ o.bs = 9) ∧
  (∃ o : FieldsX, decodeWord false 0x80080218417F0000 = some (.mma o) ∧ o.dst = 2 ∧ o.ta = 4 ∧ o.tb = 5 ∧ o.fb = 6) ∧
  (∃ o : FieldsM, decodeWord false 0x60C03F1240000000 = some (.stl o) ∧ o.dst = 63 ∧ o.base = 18)

/-- Decoding what the encoder gives for a well-formed instruction gives the instruction back: no bit of an operand is dropped (R98,
R107 to R124). -/
def Obligations.DecodeOfEncode : Prop :=
  ∀ (i : Instr) (pair : Bool) (w : Word), i.wf = true → encode i = some (pair, w) → decodeWord pair w = some i

/-- At reset the memory of the package, the core images and the windows have their canonical form, and all 256 cores are there. -/
def Obligations.MemoryFormAtReset : Prop :=
  State.reset.memoryOk ∧ State.reset.windowsOk ∧ State.reset.cores.length = 256

/-- Every step keeps the canonical form of the package's memory and of the core images: addresses rise and no listed byte is zero.
-/
def Obligations.MemoryFormKept : Prop := ∀ s t : State, s.memoryOk → step s = .next t → t.memoryOk

/-- Every step keeps the canonical form of the crews' register windows. -/
def Obligations.WindowFormKept : Prop := ∀ s t : State, s.windowsOk → step s = .next t → t.windowsOk

/-- What power-on reset leaves where the spec gives the value: the Gaffer at its fused limits with no tokens (R330, R332, R339),
banks in cache mode (R189), the launch queues and the event queue off (R368, R370), no routing bank valid (R297), links down with
AUTO set (R303), LNKTO 100,000 (R302), debug controls 0 (R381), SLEW 128. -/
def Obligations.ResetLeaves : Prop :=
  let s := State.reset
  s.power.gcfg = { cap := 4500, slew := 128, ilim := 2250 } ∧
  s.power.bal = 0 ∧ s.power.rate = 0 ∧ s.power.cues = [] ∧
  s.power.ggrp = { group := 0, budget := 0, bridge := false, fabno := 0 } ∧
  (∀ k, k < 256 → (s.core k).bal = 0 ∧ (s.core k).dirty = [] ∧ (s.core k).barriers = [] ∧ (s.core k).hold = none) ∧
  (∀ d, d < 4 → (s.die d).bal = 0 ∧ (s.die d).spawnQ = [] ∧ (s.die d).trip = false ∧ (s.die d).hdrm = false) ∧
  (∀ k, k < 64 → ∀ b, b < 16 → ((s.cluster k).banks.getD b Bank.reset).mode = .cache) ∧
  (∀ q, q < 64 → (s.queue q).en = false ∧ (s.queue q).log2 = 6 ∧ (s.queue q).rd = 0 ∧ (s.queue q).wr = 0 ∧
    (s.queue q).err = 0 ∧ (s.queue q).werr = false ∧ (s.queue q).halt = false ∧ (s.queue q).phase = 0) ∧
  s.events.en = false ∧ s.events.head = 0 ∧ s.events.tail = 0 ∧ s.events.ovf = 0 ∧
  s.fab.valid0 = false ∧ s.fab.valid1 = false ∧ s.fab.inj = 0 ∧ s.fab.lnkto = 100000 ∧ s.fab.weights = (1, 1) ∧
  (∀ p, p < 64 → (s.port p).auto = true ∧ (s.port p).up = false ∧ (s.port p).keys = none ∧ (s.port p).fails = 0) ∧
  s.dbg.hen = false ∧ s.dbg.reel = false ∧ s.dbg.take = false ∧ s.dbg.stop = false ∧ s.dbg.pkts = 0

/-! ### Scalars -/

/-- Scalar 63 reads as zero and a write to it is discarded; any other scalar holds what was last written to it; a crew starts with
64 of them (R61). -/
def Obligations.ScalarsHoldWhatIsWritten : Prop :=
  (∀ (c : Crew) (v : Word), c.rs 63 = 0 ∧ c.ws 63 v = c) ∧
  (∀ (c : Crew) (n m : Nat) (v : Word), n ≠ 63 → n < c.s.length →
    (c.ws n v).rs n = v ∧ (m ≠ n → (c.ws n v).rs m = c.rs m) ∧ (c.ws n v).s.length = c.s.length) ∧
  (∀ (id : Nat) (g : Region) (core : Nat) (p : Place) (pc arg : Word) (n : Nat) (sp : Option Nat) (m : Memory) (now : Nat),
    (startCrew id g core p pc arg n sp m now).s.length = 64)

/-- The scalar words whose results are those of 64-bit or 32-bit machine arithmetic, extended by the sign of TYPE (R158): each
completes, writes s[DST], and changes nothing else. -/
def Obligations.ScalarArithmetic : Prop :=
  ∀ (o : FieldsR) (s : State),
    CrewEffect (.mov o) s (fun e => e.c.ws o.dst.toNat (narrowed o.ty (e.src1 o))) ∧
    CrewEffect (.add o) s (fun e => e.c.ws o.dst.toNat (narrowed o.ty (e.src1 o + e.src2 o))) ∧
    CrewEffect (.sub o) s (fun e => e.c.ws o.dst.toNat (narrowed o.ty (e.src1 o - e.src2 o))) ∧
    CrewEffect (.mul o) s (fun e => e.c.ws o.dst.toNat (narrowed o.ty (e.src1 o * e.src2 o))) ∧
    CrewEffect (.and o) s (fun e => e.c.ws o.dst.toNat (narrowed o.ty (e.src1 o &&& e.src2 o))) ∧
    CrewEffect (.or o) s (fun e => e.c.ws o.dst.toNat (narrowed o.ty (e.src1 o ||| e.src2 o))) ∧
    CrewEffect (.xor o) s (fun e => e.c.ws o.dst.toNat (narrowed o.ty (e.src1 o ^^^ e.src2 o))) ∧
    CrewEffect (.not o) s (fun e => e.c.ws o.dst.toNat (narrowed o.ty (~~~(e.src1 o)))) ∧
    CrewEffect (.shl o) s (fun e => e.c.ws o.dst.toNat
      (narrowed o.ty (e.src1 o <<< ((e.src2 o).toNat % scalarBits o.ty)))) ∧
    CrewEffect (.shr o) s (fun e => e.c.ws o.dst.toNat
      (narrowed o.ty (unsignedPart o.ty (e.src1 o) >>> ((e.src2 o).toNat % scalarBits o.ty)))) ∧
    CrewEffect (.sar o) s (fun e => e.c.ws o.dst.toNat
      (narrowed o.ty ((signedPart o.ty (e.src1 o)).sshiftRight ((e.src2 o).toNat % scalarBits o.ty)))) ∧
    CrewEffect (.sel o) s (fun e => e.c.ws o.dst.toNat
      (narrowed o.ty (if e.src1 o ≠ 0 then e.src2 o else e.src3 o)))

/-- The scalar words that compare, divide, rotate and count (R158), on the integers that TYPE makes of their operands: each
completes, writes s[DST], and changes nothing else. A zero divisor gives -1 and the dividend. -/
def Obligations.ScalarComparisons : Prop :=
  ∀ (o : FieldsR) (s : State),
    CrewEffect (.min o) s (fun e => e.c.ws o.dst.toNat (narrowed o.ty
      (if operand o.ty (e.src1 o) ≤ operand o.ty (e.src2 o) then e.src1 o else e.src2 o))) ∧
    CrewEffect (.max o) s (fun e => e.c.ws o.dst.toNat (narrowed o.ty
      (if operand o.ty (e.src1 o) ≤ operand o.ty (e.src2 o) then e.src2 o else e.src1 o))) ∧
    CrewEffect (.cmp o) s (fun e => e.c.ws o.dst.toNat
      (if (o.md = 0 ∧ operand o.ty (e.src1 o) = operand o.ty (e.src2 o)) ∨
          (o.md = 1 ∧ operand o.ty (e.src1 o) ≠ operand o.ty (e.src2 o)) ∨
          (o.md = 2 ∧ operand o.ty (e.src1 o) < operand o.ty (e.src2 o)) ∨
          (o.md = 3 ∧ operand o.ty (e.src1 o) ≤ operand o.ty (e.src2 o)) ∨
          (o.md = 4 ∧ operand o.ty (e.src2 o) < operand o.ty (e.src1 o)) ∨
          (5 ≤ o.md.toNat ∧ operand o.ty (e.src2 o) ≤ operand o.ty (e.src1 o)) then 1 else 0)) ∧
    CrewEffect (.mulh o) s (fun e => e.c.ws o.dst.toNat (narrowed o.ty
      (wordOf (operand o.ty (e.src1 o) * operand o.ty (e.src2 o) / (2 ^ scalarBits o.ty : Nat))))) ∧
    CrewEffect (.div o) s (fun e => e.c.ws o.dst.toNat (narrowed o.ty
      (if operand o.ty (e.src2 o) = 0 then -1
       else wordOf (Int.tdiv (operand o.ty (e.src1 o)) (operand o.ty (e.src2 o)))))) ∧
    CrewEffect (.rem o) s (fun e => e.c.ws o.dst.toNat (narrowed o.ty
      (if operand o.ty (e.src2 o) = 0 then e.src1 o
       else wordOf (Int.tmod (operand o.ty (e.src1 o)) (operand o.ty (e.src2 o)))))) ∧
    CrewEffect (.rot o) s (fun e => e.c.ws o.dst.toNat (narrowed o.ty
      (if scalarBits o.ty = 64 then (e.src1 o).rotateLeft ((e.src2 o).toNat % 64)
       else (((e.src1 o).setWidth 32).rotateLeft ((e.src2 o).toNat % 32)).setWidth 64))) ∧
    CrewEffect (.popc o) s (fun e => e.c.ws o.dst.toNat
      (BitVec.ofNat 64 ((List.range (scalarBits o.ty)).countP (fun k => (e.src1 o).getLsbD k)))) ∧
    CrewEffect (.clz o) s (fun e => e.c.ws o.dst.toNat
      (BitVec.ofNat 64 ((List.range (scalarBits o.ty)).reverse.takeWhile (fun k => !(e.src1 o).getLsbD k)).length)) ∧
    CrewEffect (.bfe o) s (fun e => e.c.ws o.dst.toNat
      (let n := scalarBits o.ty
       let pos := min ((e.src2 o).toNat % 256) n
       let len := min ((e.src2 o).toNat / 256 % 256) (n - pos)
       let f := (unsignedPart o.ty (e.src1 o)).toNat / 2 ^ pos % 2 ^ len
       narrowed o.ty (if tySigned o.ty && decide (0 < len) && f.testBit (len - 1) then wordOf ((f : Int) - 2 ^ len)
         else BitVec.ofNat 64 f))) ∧
    CrewEffect (.bfi o) s (fun e => e.c.ws o.dst.toNat
      (let n := scalarBits o.ty
       let pos := min ((e.src3 o).toNat % 256) n
       let len := min ((e.src3 o).toNat / 256 % 256) (n - pos)
       let field : Word := BitVec.ofNat 64 ((2 ^ len - 1) * 2 ^ pos)
       narrowed o.ty ((e.src1 o &&& ~~~field) ||| ((e.src2 o <<< pos) &&& field))))

/-- MOVI, MOVH and ADDA (R157): each completes, writes s[DST], and changes nothing else.

SRD samples a system register; SWR writes one, keeping no reserved bit, and an SWR to a view register waits for every earlier word
of the path (R5, R160). TKRD reads an item of R342 as SRD reads a register. -/
def Obligations.ImmediatesAndSystemRegisters : Prop :=
  (∀ (o : FieldsI) (s : State),
     CrewEffect (.movi o) s (fun e => e.c.ws o.dst.toNat
       (if o.ty = 0 then o.imm.signExtend 64 else o.imm.setWidth 64)) ∧
     CrewEffect (.movh o) s (fun e => e.c.ws o.dst.toNat
       ((e.v.rs o.dst.toNat &&& 0xFFFFFFFF) ||| (o.imm.setWidth 64 <<< 32))) ∧
     CrewEffect (.adda o) s (fun e => e.c.ws o.dst.toNat (e.v.rs o.sa.toNat + o.imm.signExtend 64))) ∧
  (∀ (o : FieldsS) (s : State),
     CrewEffect (.srd o) s (fun e => e.c.ws o.dst.toNat (BitVec.ofNat 64 (e.sysRead o.sys.toNat))) ∧
     CrewEffect (.tkrd o) s (fun e => e.c.ws o.dst.toNat (BitVec.ofNat 64 (e.tkItem o.imm.toNat))) ∧
     (∀ e, s.taken (.swr o) = some e → ¬(0x10 ≤ o.sys.toNat ∧ o.sys.toNat ≤ 0x14 ∧ e.p.flights ≠ []) →
       exec (.swr o) s = .next (e.finish (.swr o) (s.updCrew e.r.crew
         (fun c => c.setSys o.sys.toNat (e.v.rs o.ss.toNat).toNat)))) ∧
     (∀ e, s.taken (.swr o) = some e → 0x10 ≤ o.sys.toNat → o.sys.toNat ≤ 0x14 → e.p.flights ≠ [] →
       exec (.swr o) s = .next s) ∧
     (∀ e, s.taken (.srd o) = some e → e.sysRead 0 = 64 ∧ e.sysRead 1 = s.slate.toNat ∧ e.sysRead 2 = e.p.side.exm.toNat ∧
       e.sysRead 4 = e.c.live.toNat ∧ e.sysRead 0x18 = e.c.win * 16 ∧ e.sysRead 0x200 = e.c.sys.trapc.toNat ∧
       e.sysRead 0x201 = e.c.sys.trapv.toNat) ∧
     (∀ (c : Crew) (v : Nat), (c.setSys 0x20 v).sysVal 0x20 = v % 8 ∧ (c.setSys 0x21 v).sysVal 0x21 = v % 32 ∧
       (c.setSys 0x30 v).sysVal 0x30 = v % 2 ^ 64 ∧ (c.setSys 0x202 v).sysVal 0x202 = v % 2 ^ 64 &&& 0xF1FFFFFFFFFFFFF8 ∧
       ((c.setSys 0x10 v).sysVal 0x10 = v % 2 ^ 32 &&& 0x01FF00FF)))

/-! ### Vectors -/

/-- The vector integer words (R167 to R169): exact results, wrapped or saturated, in the elements of the active lanes; each
completes and changes nothing else. VSEL picks by a mask, VMOVS writes an immediate, VCMP writes mask bits of active lanes. -/
def Obligations.VectorIntegers : Prop :=
  ∀ (o : FieldsR) (s : State),
    (let row (i : Instr) (f : Nat → Bool → Int → Int → Int → Int) : Prop :=
       CrewEffect i s (fun e => e.lanewise o (intElem o.ty) (intFn o.ty (o.md == 1) f))
     row (.vadd o) (fun _ _ a b _ => a + b) ∧ row (.vsub o) (fun _ _ a b _ => a - b) ∧
     row (.vmul o) (fun _ _ a b _ => a * b) ∧ row (.vmulh o) (fun n _ a b _ => a * b / (2 ^ n : Nat)) ∧
     row (.vmad o) (fun _ _ a b c => a * b + c) ∧
     row (.vand o) (fun n _ a b _ => bitwise n (· &&& ·) a b) ∧ row (.vor o) (fun n _ a b _ => bitwise n (· ||| ·) a b) ∧
     row (.vxor o) (fun n _ a b _ => bitwise n (· ^^^ ·) a b) ∧ row (.vnot o) (fun _ _ a _ _ => -a - 1) ∧
     row (.vshl o) (fun n _ a b _ => a * (2 ^ (wrapNat n b % n) : Nat)) ∧
     row (.vshr o) (fun n _ a b _ => Int.ofNat (wrapNat n a / 2 ^ (wrapNat n b % n))) ∧
     row (.vsar o) (fun n _ a b _ => sextInt n (wrapNat n a) / (2 ^ (wrapNat n b % n) : Nat)) ∧
     row (.vmin o) (fun _ _ a b _ => if a < b then a else b) ∧ row (.vmax o) (fun _ _ a b _ => if a < b then b else a) ∧
     row (.vabs o) (fun _ sg a _ _ => if sg then (a.natAbs : Int) else a) ∧
     row (.vclz o) (fun n _ a _ _ => (leadingZeros n (wrapNat n a) : Int)) ∧
     row (.vpopc o) (fun n _ a _ _ => (popcount n (wrapNat n a) : Int)) ∧
     row (.vbfe o) (fun n sg a b _ => bfe n sg a b) ∧ row (.vbfi o) (fun n _ a b c => bfi n a b c) ∧
     row (.vmov o) (fun _ _ a _ _ => a)) ∧
    CrewEffect (.vsel o) s (fun e => e.lanesOf (intElem o.ty) o.dst.toNat o.pred (fun i j =>
      (if (e.v.rk o.sa.toNat).getLsbD i then srcElem e.v o 2 o.sb (intElem o.ty) i j
       else srcElem e.v o 3 o.sc (intElem o.ty) i j, 0))) ∧
    CrewEffect (.vcmp o) s (fun e => e.c.wkOn o.dst.toNat (e.active o) (maskOf (fun i =>
      intCond (fld o.md 2 0)
        (intOf (tySigned o.ty) (intElem o.ty).bits (srcElem e.v o 1 o.sa (intElem o.ty) i (fld o.md 4 3)))
        (intOf (tySigned o.ty) (intElem o.ty).bits (srcElem e.v o 2 o.sb (intElem o.ty) i (fld o.md 4 3)))))) ∧
    (∀ q : FieldsI, CrewEffect (.vmovs q) s (fun e => e.lanesOf (intElem q.ty) q.dst.toNat q.pred (fun _ _ =>
      (if q.ty = 6 then (q.imm.signExtend 64).toNat else q.imm.toNat % 2 ^ (intElem q.ty).bits, 0))))

/-- The vector floating-point words (R170 to R172): each result is the exact one rounded once under RM, in the elements of the
active lanes, with the flags of R79 and R80; each completes and changes nothing else. A comparison that meets a signalling NaN
raises NV.

The special functions (R173) on FP32 elements of the active lanes; each completes and changes nothing else. Their special cases are
those of the rule's table: what they give of a zero, an infinity, a NaN and a negative number, VEXP2 of an integer within range and
VLOG2 of a power of two, which are exact, VSIN of the multiples of 1/2, among them every finite value of magnitude 2^22 or more, and
VCOS of the odd multiples of 1/4. -/
def Obligations.VectorFloats : Prop :=
  (∀ (o : FieldsR) (s : State),
     (let row (i : Instr) (f : Fmt → Nat → LaneFn) : Prop :=
        CrewEffect i s (fun e => e.lanewise o (fpElem o.ty) (f (fpFmt o.ty) o.rm.toNat))
      row (.vfadd o) (fun f m a b _ => f.finish m (FVal.add m (f.decode a) (f.decode b))) ∧
      row (.vfsub o) (fun f m a b _ => f.finish m (FVal.add m (f.decode a) (f.decode b).neg)) ∧
      row (.vfmul o) (fun f m a b _ => f.finish m (FVal.mul (f.decode a) (f.decode b))) ∧
      row (.vfma o) (fun f m a b c => f.finish m (FVal.fma m (f.decode a) (f.decode b) (f.decode c))) ∧
      row (.vfmin o) (fun f _ a b _ => f.minmax true a b) ∧ row (.vfmax o) (fun f _ a b _ => f.minmax false a b) ∧
      row (.vfabs o) (fun f _ a _ _ => fpSign f false a) ∧ row (.vfneg o) (fun f _ a _ _ => fpSign f true a) ∧
      row (.vfrnd o) (fun f m a _ _ => fpRound f m (o.md == 1) a) ∧ row (.vfcls o) (fun f _ a _ _ => (fpClass f a, 0))) ∧
     CrewEffect (.vfcmp o) s (fun e =>
       let f := fpFmt o.ty
       let x (i : Nat) := f.decode (srcElem e.v o 1 o.sa (fpElem o.ty) i (fld o.md 4 3))
       let y (i : Nat) := f.decode (srcElem e.v o 2 o.sb (fpElem o.ty) i (fld o.md 4 3))
       (e.c.wkOn o.dst.toNat (e.active o) (maskOf (fun i => fpCond (fld o.md 2 0) (x i) (y i)))).raise
         (orFlags ((maskLanes (e.active o)).map (fun i => nvIf ((x i).isSig || (y i).isSig)))))) ∧
  (∀ (o : FieldsR) (s : State),
     let row (i : Instr) (f : Nat → FVal → Nat × Flags) : Prop :=
       CrewEffect i s (fun e => e.lanewise o elem32 (fun a _ _ => f o.rm.toNat (fp32.decode a)))
     row (.vrcp o) rcpF ∧ row (.vrsq o) rsqF ∧ row (.vsqrt o) sqrtF ∧ row (.vexp2 o) exp2F ∧ row (.vlog2 o) log2F ∧
     row (.vsin o) (trigF false) ∧ row (.vcos o) (trigF true)) ∧
  (∀ m : Nat,
    let inf := 0x7F800000
    let negInf := 0xFF800000
    let negZero := 0x80000000
    let nan := 0x7FC00000
    let at_ (f : Nat → FVal → Nat × Flags) (a : Nat) := f m (fp32.decode a)
    (∀ (s : Bool) (f : Nat → FVal → Nat × Flags), f ∈ [rcpF, rsqF, sqrtF, exp2F, log2F, trigF false, trigF true] →
      f m (.nan s) = (nan, if s then flagNV else 0)) ∧
    (at_ rcpF 0 = (inf, flagDZ) ∧ at_ rcpF negZero = (negInf, flagDZ) ∧ at_ rcpF inf = (0, 0) ∧ at_ rcpF negInf = (negZero, 0)) ∧
    (at_ rsqF 0 = (inf, flagDZ) ∧ at_ rsqF negZero = (negInf, flagDZ) ∧ at_ rsqF inf = (0, 0)) ∧
    (at_ sqrtF 0 = (0, 0) ∧ at_ sqrtF negZero = (negZero, 0) ∧ at_ sqrtF inf = (inf, 0)) ∧
    (at_ exp2F negInf = (0, 0) ∧ at_ exp2F inf = (inf, 0) ∧ at_ exp2F 0 = (0x3F800000, 0) ∧ at_ exp2F negZero = (0x3F800000, 0)) ∧
    (at_ log2F 0 = (negInf, flagDZ) ∧ at_ log2F negZero = (negInf, flagDZ) ∧ at_ log2F 0x3F800000 = (0, 0) ∧
      at_ log2F inf = (inf, 0)) ∧
    (∀ cosine : Bool, at_ (trigF cosine) inf = (nan, flagNV) ∧ at_ (trigF cosine) negInf = (nan, flagNV)) ∧
    (∀ a, negZero < a → a ≤ negInf →
      at_ rsqF a = (nan, flagNV) ∧ at_ sqrtF a = (nan, flagNV) ∧ at_ log2F a = (nan, flagNV)) ∧
    (∀ a, 0x4A800000 ≤ a → a < inf → at_ (trigF false) a = (0, 0) ∧ at_ (trigF false) (negZero + a) = (negZero, 0)) ∧
    (∀ (neg : Bool) (mm : Nat) (e : Int),
      let x : ℚ := (mm : ℚ) * (2 : ℚ) ^ e
      (∀ j : Nat, x = j / 2 → trigF false m (.fin neg mm e) = (if neg then negZero else 0, 0)) ∧
      (∀ j : Nat, x = (2 * j + 1) / 4 → trigF true m (.fin neg mm e) = (0, 0)) ∧
      (∀ k : Int, (if neg then -x else x) = k →
        (-126 ≤ k → k ≤ 127 → exp2F m (.fin neg mm e) = (((k + 127) * 2 ^ 23).toNat, 0)) ∧
        (-149 ≤ k → k < -126 → exp2F m (.fin neg mm e) = (2 ^ (k + 149).toNat, 0))) ∧
      (∀ k : Int, x = (2 : ℚ) ^ k → -149 ≤ k → k ≤ 127 →
        log2F m (.fin false mm e) = fp32.round m (.fin (decide (k < 0)) k.natAbs 0) ∧ (log2F m (.fin false mm e)).2 = 0)))

/-- Conversions, packing, CB4, quantisation and pair words (R116, R175 to R180): each completes, writes its destination in the
active lanes, and changes nothing else. Equal formats pack bit for bit; the halves of a pair word read the crew as the word found
it. -/
def Obligations.NarrowFormats : Prop :=
  ∀ (o : FieldsR) (s : State),
    CrewEffect (.vfcvt o) s (fun e => e.lanesOf (laneElem (codeKind (codeD o))) o.dst.toNat o.pred (fun i _ =>
      cvt (codeD o) (codeS o) o.rm.toNat (isSat o) (srcElem e.v o 1 o.sa (codeElem (codeS o)) i 0))) ∧
    CrewEffect (.vunpk o) s (fun e => e.lanesOf (laneElem (codeKind (codeD o))) o.dst.toNat o.pred (fun i _ =>
      cvt (codeD o) (codeS o) o.rm.toNat (isSat o) (srcElem e.v o 1 o.sa (codeElem (codeS o)) i (fld o.md 1 0)))) ∧
    CrewEffect (.vpack o) s (fun e =>
      let conv (b : Nat) : Nat × Flags := if codeD o = codeS o then (b, 0) else cvt (codeD o) (codeS o) o.rm.toNat (isSat o) b
      e.c.putVals { kind := .vec, bytes := codeWidth (codeD o) / 8, count := 4 / (codeWidth (codeD o) / 8) } o.dst.toNat
        ((maskLanes (e.active o)).flatMap (fun i =>
          [(i, fld o.md 1 0, conv (srcElem e.v o 1 o.sa (codeElem (codeS o)) i 0)),
           (i, fld o.md 1 0 + 1, conv (srcElem e.v o 2 o.sb (codeElem (codeS o)) i 0))]))) ∧
    CrewEffect (.vcbtEnc o) s (fun e => e.lanesOf elem32 o.dst.toNat o.pred (fun i _ =>
      let r := cb4Encode e.v.codebook (codeDecode (codeS o) (srcElem e.v o 1 o.sa (codeElem (codeS o)) i 0))
      (setNibble (e.v.elem .vec o.dst.toNat i 4 0) (fld o.md 2 0) r.1, r.2))) ∧
    CrewEffect (.vcbtDec o) s (fun e => e.lanesOf elem32 o.dst.toNat o.pred (fun i _ =>
      encodeFloat (codeD o) o.rm.toNat (cbEntry e.v.codebook
        (if replaces o 1 then bcastBits e.v o 4 o.sa else srcElem e.v o 1 o.sa elem32 i 0 / 16 ^ fld o.md 2 0 % 16)))) ∧
    CrewEffect (.vcbtMov o) s (fun e => e.lanesOf elem32 o.dst.toNat o.pred (fun i _ =>
      (setNibble (e.v.elem .vec o.dst.toNat i 4 0) (fld o.md 2 0) (srcElem e.v o 1 o.sa elem32 i 0), 0))) ∧
    CrewEffect (.vqhist o) s (fun e => e.lanesOf elem32 o.dst.toNat o.pred (fun i _ =>
      let n := 16 * 2 ^ fld o.md 1 0
      (wrapNat 32 (((List.range (64 / n)).map (fun b =>
        qscale (((List.range n).filter (fun k => (e.active o).getLsbD (b * n + k))).map (fun k =>
          fp32.decode (srcElem e.v o 1 o.sa elem32 (b * n + k) 0))) (bcastBits e.v o 8 o.sb)
          (qTop e.v.codebook (fld o.md 4 2)))).getD (i / n) 0), 0))) ∧
    CrewEffect (.vqnt o) s (fun e => e.lanesOf elem32 o.dst.toNat o.pred (fun i _ =>
      qEncode e.v.codebook (fld o.md 4 2) o.rm.toNat
        ((fp32.decode (srcElem e.v o 1 o.sa elem32 i 0)).scale (-(scaleExp (srcElem e.v o 2 o.sb elem32 i 0)))))) ∧
    (∀ q : FieldsP, CrewEffect (.pairWord q) s (fun e =>
      (e.c.putVals (halfElem q.lo) q.lo.cd.toNat (halfVals q.lo e.v e.p.side.exm)).putVals (halfElem q.hi) q.hi.cd.toNat
        (halfVals q.hi e.v e.p.side.exm)))

/-- The cross-lane words and votes (R181 to R183): lane i of a move holds the lane of its source that the rule names, read before
any lane is written; each completes and changes nothing else. -/
def Obligations.CrossLane : Prop :=
  ∀ (o : FieldsR) (s : State),
    (let move (i : Instr) (pick : Env → Nat → Nat) : Prop :=
       CrewEffect i s (fun e => e.lanesOf (intElem o.ty) o.dst.toNat o.pred (fun i j =>
         (srcElem e.v o 1 o.sa (intElem o.ty) (pick e i) j, 0)))
     move (.vshuf o) (fun e i => srcElem e.v o 2 o.sb (intElem o.ty) i 0 % 2 ^ 32 % 64) ∧
     move (.vrot o) (fun e i => (((i : Int) + sextInt 32 (bcastBits e.v o 32 o.sb)) % 64).toNat) ∧
     move (.vbcst o) (fun e _ => bcastBits e.v o 32 o.sb % 64) ∧
     move (.vbfly o) (fun e i =>
       let d := flyBy (o.md == 1) (bcastBits e.v o 32 o.sb % 64)
       (if d < 1 ∨ 64 ≤ d then i else i ^^^ d) % 64)) ∧
    CrewEffect (.vrdc o) s (fun e => e.lanesOf (redElem o) o.dst.toNat o.pred (fun _ j =>
      if j < (redElem o).count then
        let r := redTree o 6 (lanes.map (fun i =>
          if (e.active o).getLsbD i then some (srcElem e.v o 1 o.sa (redElem o) i j) else none))
        (r.1.getD 0, r.2)
      else (0, 0))) ∧
    CrewEffect (.vscan o) s (fun e =>
      e.c.putVals (redElem o) o.dst.toNat ((List.range (redElem o).count).flatMap (fun j =>
        ((maskLanes (e.active o)).zip (scan o (fld o.md 3 3 == 1) none
          ((maskLanes (e.active o)).map (fun i => srcElem e.v o 1 o.sa (redElem o) i j)))).map (fun q => (q.1, j, q.2))))) ∧
    CrewEffect (.vext o) s (fun e => e.c.ws o.dst.toNat (wordOf (intOf (tySigned o.ty) (intElem o.ty).bits
      (e.v.elem (intElem o.ty).kind o.sa.toNat (bcastBits e.v o 32 o.sb % 64) (intElem o.ty).bytes (fld o.md 1 0))))) ∧
    CrewEffect (.vins o) s (fun e =>
      let k := bcastBits e.v o 32 o.sb % 64
      if (e.active o).getLsbD k then
        e.c.wrElem (intElem o.ty).kind o.dst.toNat k (intElem o.ty).bytes (fld o.md 1 0) (e.v.rs o.sa.toNat).toNat
      else e.c) ∧
    CrewEffect (.vballot o) s (fun e => e.c.wkOn o.dst.toNat (e.active o) (votes e o)) ∧
    CrewEffect (.vvote o) s (fun e =>
      let yes := e.active o &&& votes e o
      e.c.ws o.dst.toNat (
        if fld o.md 1 0 = 0 then (if yes ≠ 0 then 1 else 0)
        else if fld o.md 1 0 = 1 then (if yes = e.active o then 1 else 0)
        else if fld o.md 1 0 = 2 then BitVec.ofNat 64 (maskLanes yes).length
        else BitVec.ofNat 64 ((maskLanes yes).headD 64)))

/-- The mask words write only the bits of active lanes, EXMRD those of the path's members; KMOV.S writes a scalar; EXMWR only clears
bits of the executing path's EXM (R42, R184, R185). Each completes and changes nothing else. -/
def Obligations.MaskWords : Prop :=
  ∀ (o : FieldsR) (s : State),
    CrewEffect (.kand o) s (fun e => e.c.wkOn o.dst.toNat (e.active o) (e.v.rk o.sa.toNat &&& e.v.rk o.sb.toNat)) ∧
    CrewEffect (.kor o) s (fun e => e.c.wkOn o.dst.toNat (e.active o) (e.v.rk o.sa.toNat ||| e.v.rk o.sb.toNat)) ∧
    CrewEffect (.kxor o) s (fun e => e.c.wkOn o.dst.toNat (e.active o) (e.v.rk o.sa.toNat ^^^ e.v.rk o.sb.toNat)) ∧
    CrewEffect (.knot o) s (fun e => e.c.wkOn o.dst.toNat (e.active o) (~~~(e.v.rk o.sa.toNat))) ∧
    CrewEffect (.kmov o) s (fun e => e.c.wkOn o.dst.toNat (e.active o)
      (if replaces o 1 then BitVec.ofNat 64 (bcastBits e.v o 64 o.sa) else e.v.rk o.sa.toNat)) ∧
    CrewEffect (.kmovS o) s (fun e => e.c.ws o.dst.toNat (e.v.rk o.sa.toNat)) ∧
    CrewEffect (.exmrd o) s (fun e => e.c.wkOn o.dst.toNat e.p.side.members e.p.side.exm) ∧
    (∀ e, s.taken (.exmwr o) = some e → exec (.exmwr o) s = .next (e.finish (.exmwr o) (s.updPath e.r (fun p =>
      { p with side := { p.side with exm := p.side.exm &&& e.v.rk o.sa.toNat } })))) ∧
    (∀ (c : Crew) (n : Nat) (sel v : Mask), n ≠ 0 → n < c.k.length → ∀ i, i < 64 →
      ((c.wkOn n sel v).rk n).getLsbD i = (if sel.getLsbD i then v.getLsbD i else (c.rk n).getLsbD i)) ∧
    (∀ (c : Crew) (sel v : Mask), c.wkOn 0 sel v = c ∧ c.rk 0 = BitVec.allOnes 64)

/-- What the results of active lanes leave in the registers (R6, R71, R164): element j of each active lane holds its result, every
byte of the window outside those elements is unchanged, and no flag is lost. -/
def Obligations.ActiveLanesAreWritten : Prop :=
  ∀ (c : Crew) (el : Elem) (num : Nat) (act : Mask) (g : Nat → Nat → Nat × Flags),
    Memory.wf c.urs = true → el.count * el.bytes ≤ el.kind.laneBytes →
    (∀ i j, i < 64 → act.getLsbD i = true → j < el.count →
      (c.putVals el num (laneVals el act g)).elem el.kind num i el.bytes j = (g i j).1 % 2 ^ (8 * el.bytes)) ∧
    (∀ a, (∀ i j, i < 64 → act.getLsbD i = true → j < el.count →
        a < c.offset el.kind num + (i * el.kind.laneBytes + j * el.bytes) ∨
        c.offset el.kind num + (i * el.kind.laneBytes + j * el.bytes) + el.bytes ≤ a) →
      Memory.read (c.putVals el num (laneVals el act g)).urs a = Memory.read c.urs a) ∧
    (c.putVals el num (laneVals el act g)).sys.fpxf &&& c.sys.fpxf = c.sys.fpxf

/-! ### Distributions -/

/-- The words that make and combine distributions (R273 to R285): in each active lane the rule's element, void with NV where the
lane fails; a source that is not well formed makes its lane fail; the tag is written when a lane is active, also where each of these
fails, which is the model's choice (log 111). Each completes and changes nothing else.

The readers of distributions write FP32 numbers to the active lanes of consecutive vectors: DMOM five, DQNT and DCDF one; an element
that is not well formed reads as canonical NaNs with NV (R269, R287 to R289). Each completes and changes nothing else. -/
def Obligations.Distributions : Prop :=
  (∀ (o : FieldsR) (s : State),
     (let pts (e : Env) (n : BitVec 8) (i : Nat) := e.v.points n.toNat i
      let both (e : Env) := e.v.tag o.sa.toNat ||| e.v.tag o.sb.toNat
      let binary (i : Instr) (op : Nat → Nat → Flagged) : Prop :=
        CrewEffect i s (fun e => e.distOf o (some (both e)) (fun i =>
          checked [pts e o.sa i, pts e o.sb i]
            (condense (pairUp op ((e.v.tag o.sa.toNat &&& e.v.tag o.sb.toNat) != 0) (pts e o.sa i) (pts e o.sb i)))))
      binary (.dadd o) (fun x y => dAddF (lit x) (lit y)) ∧ binary (.dsub o) (fun x y => dSubF (lit x) (lit y)) ∧
      binary (.dmul o) (fun x y => dMulF (lit x) (lit y)) ∧ binary (.dmax o) (fp32.minmax false) ∧
      binary (.dmin o) (fp32.minmax true) ∧
      CrewEffect (.dmix o) s (fun e => e.distOf o (some (both e)) (fun i =>
        checked [pts e o.sa i, pts e o.sb i] (mixPoints (pts e o.sa i) (pts e o.sb i) (value0 e o 3 o.sc i)))) ∧
      CrewEffect (.daff o) s (fun e => e.distOf o (some (e.v.tag o.sa.toNat)) (fun i =>
        checked [pts e o.sa i] (if isNan32 (value0 e o 2 o.sb i) || isNan32 (value0 e o 3 o.sc i) then none
          else mapValues (fun v => fp32.finish 0 (FVal.fma 0 (fp32.decode v) (fp32.decode (value0 e o 2 o.sb i))
            (fp32.decode (value0 e o 3 o.sc i)))) (pts e o.sa i)))) ∧
      CrewEffect (.dfn o) s (fun e => e.distOf o (some (e.v.tag o.sa.toNat)) (fun i =>
        checked [pts e o.sa i] (mapValues (distFn (fld o.md 1 0)) (pts e o.sa i)))) ∧
      CrewEffect (.dcond o) s (fun e => e.distOf o (some (e.v.tag o.sa.toNat)) (fun i =>
        checked [pts e o.sa i] (if isNan32 (value0 e o 2 o.sb i) then none
          else some ((pts e o.sa i).map (fun p =>
            (p.1, if intCond (fld o.md 2 0) (FVal.cmp (fp32.decode p.1) (fp32.decode (value0 e o 2 o.sb i))) 0 then p.2 else 0)),
            0)))) ∧
      CrewEffect (.dpt o) s (fun e => e.distOf o (some 0) (fun i =>
        let v := value0 e o 1 o.sa i
        let w := value0 e o 2 o.sb i
        if pointOk v w then some ([(v, w), (v, 0), (v, 0), (v, 0)], 0) else none)) ∧
      CrewEffect (.dset o) s (fun e => e.distOf o none (fun i =>
        let v := value0 e o 1 o.sa i
        let w := value0 e o 2 o.sb i
        checked [pts e o.dst i] (if pointOk v w then some (sortPoints (setAt (pts e o.dst i) (fld o.md 1 0) (v, w)), 0)
          else none))))) ∧
  (∀ (o : FieldsR) (s : State),
     let row (i : Instr) (n : Nat) (f : Env → List Point → Nat → List Flagged) : Prop :=
       CrewEffect i s (fun e => e.readOff o (fun i =>
         if wellFormed (e.v.points o.sa.toNat i) then f e (e.v.points o.sa.toNat i) i
         else List.replicate n (fp32.nanBits, flagNV)))
     row (.dmom o) 5 (fun _ ps _ => moments ps) ∧
     row (.dqnt o) 1 (fun e ps i => [quantile ps (srcElem e.v o 2 o.sb elem32 i 0)]) ∧
     row (.dcdf o) 1 (fun e ps i => [cdfAt ps (srcElem e.v o 2 o.sb elem32 i 0)]))

/-- DTAG and DTGRD (R272, R286): DTAG.new takes the lowest set bit of the region's TAGA for the tag, with status 0, or answers
EXHAUSTED with tag zero; the other forms write or read a tag. Nothing else changes. -/
def Obligations.TagWords : Prop :=
  ∀ (o : FieldsR) (s : State),
    CrewEffect (.dtagSet o) s (fun e => e.c.wtag o.dst.toNat ((e.v.rs o.sa.toNat).setWidth 32)) ∧
    CrewEffect (.dtagOr o) s (fun e =>
      e.c.wtag o.dst.toNat (e.v.tag o.dst.toNat ||| (e.v.rs o.sa.toNat).setWidth 32)) ∧
    CrewEffect (.dtgrd o) s (fun e => e.c.ws o.dst.toNat ((e.v.tag o.sa.toNat).setWidth 64)) ∧
    (∀ e g, s.taken (.dtagNew o) = some e → s.region? e.c.region = some g → g.rcb.taga = 0 →
      exec (.dtagNew o) s = .next (e.finish (.dtagNew o)
        ((s.updCrew e.r.crew (fun c => c.wtag o.sa.toNat 0)).ws e.r.crew o.dst.toNat 1))) ∧
    (∀ e g (k : Nat), s.taken (.dtagNew o) = some e → s.region? e.c.region = some g → k < 32 →
      g.rcb.taga.getLsbD k = true → (∀ j, j < k → g.rcb.taga.getLsbD j = false) →
      exec (.dtagNew o) s = .next (e.finish (.dtagNew o)
        (((s.updRegion g.id (fun x =>
            { x with rcb := { x.rcb with taga := x.rcb.taga &&& ~~~(BitVec.ofNat 32 (2 ^ k)) } })).updCrew e.r.crew
          (fun c => c.wtag o.sa.toNat (BitVec.ofNat 32 (2 ^ k)))).ws e.r.crew o.dst.toNat (BitVec.ofNat 64 (2 ^ (32 + k))))))

/-! ### Control -/

/-- Where a path stands after a word (R98, R99, R136): at the next word of its clause; past its last word at the next clause in
sequence; a jump takes it to the clause it names, unless that is the join of its side. After the last instruction that it has issued
again, a path stands where it was restored (R58).

What the end of a word changes besides its effect (Env.finish): the paths of its crew and no more; of these the executing path,
which has the word in flight and goes on as above, while the other peer and the handler path are as before, but for the values that
the word replaces (R63). NOP ends so and does nothing else (R145). -/
def Obligations.PathsGoOn : Prop :=
  (∀ (s : State) (e : Env), s.taken .nop = some e → exec .nop s = .next (e.finish .nop s)) ∧
  (∀ (s : State) (e : Env) (i : Instr),
    s.onlyCrew (e.finish i s) e.r.crew ∧
    (∀ c, s.crew? e.r.crew = some c → ∃ d, (e.finish i s).crew? e.r.crew = some d ∧ c.agrees d) ∧
    (∀ c p, s.crew? e.r.crew = some c → c.path? e.r.sel = some p → p.cont = none →
      (p.idx < hdrCount p.hdr ∨ ∀ f l, p.side.frames = f :: l → f.join ≠ p.nextClause) →
      ∃ d q, (e.finish i s).crew? e.r.crew = some d ∧ d.handler = c.handler ∧ d.path? e.r.sel = some q ∧
        q.flights = p.flights ++ [e.flight i] ∧ q.stack = p.stack ∧ q.recs = p.recs ∧ q.lowUntil = p.lowUntil ∧
        (p.idx < hdrCount p.hdr → q.idx = p.idx + 1 ∧ q.side = p.side ∧ q.words = p.words ∧ q.inside = p.inside ∧ q.wait = .none) ∧
        (¬ p.idx < hdrCount p.hdr → q.readyAt p.nextClause ∧ q.side = { p.side with pc := p.nextClause }) ∧
        ∀ k x, k ≠ e.r.sel → c.path? k = some x → ∃ y, d.path? k = some y ∧ y = { x with flights := y.flights } ∧
          y.flights = x.flights.map (fun f => { f with olds := f.olds.filter (fun u => !(e.settled i).contains u.1) }))) ∧
  ∀ (s : State) (r : PathRef) (p : Path), s.path? r = some p →
    (p.cont = none → p.idx < hdrCount p.hdr → ∃ q, (s.advance r).path? r = some q ∧ q.idx = p.idx + 1 ∧ q.side = p.side ∧
      q.words = p.words ∧ q.inside = p.inside ∧ q.wait = .none) ∧
    (∀ next : Word, (∀ f l, p.side.frames = f :: l → f.join ≠ next) →
      ∃ q, (s.endClause r next).path? r = some q ∧ q.readyAt next ∧ q.side = { p.side with pc := next } ∧ q.stack = p.stack) ∧
    (p.cont = none → ¬ p.idx < hdrCount p.hdr →
      s.advance r = s.endClause r (p.side.pc + BitVec.ofNat 64 (8 * (hdrCount p.hdr + 2)))) ∧
    (∀ x, p.cont = some x → p.recs = [] → x.wait ≠ .atJoin →
      ∃ q, (s.advance r).path? r = some q ∧ q.side = x.side ∧ q.words = x.words ∧ q.idx = x.idx ∧ q.inside = x.inside ∧
        q.wait = x.wait ∧ q.cont = none)

/-- The uniform transfers (R140, R141): where the path goes, and the link or counter that is written. A target that is not aligned
is the misalignment trap of RET and JMPI. -/
def Obligations.UniformTransfers : Prop :=
  ∀ (s : State),
    (∀ (o : FieldsB) (e : Env), s.taken (.bra o) = some e →
      exec (.bra o) s = .next (e.leave (.bra o) s (e.p.side.pc + 8 * o.off.signExtend 64))) ∧
    (∀ (o : FieldsI) (e : Env), s.taken (.join o) = some e →
      exec (.join o) s = .next (e.leave (.join o) s (e.p.side.pc + 8 * o.imm.signExtend 64))) ∧
    (∀ (o : FieldsB) (e : Env), s.taken (.call o) = some e →
      exec (.call o) s = .next (e.leave (.call o) (s.ws e.r.crew o.d.toNat e.p.nextClause)
        (e.p.side.pc + 8 * o.off.signExtend 64))) ∧
    (∀ (o : FieldsB) (e : Env), s.taken (.brc o) = some e →
      let x := e.v.rs o.d.toNat
      let y := e.v.rs o.e.toNat
      let cond : Prop := (o.ty = 0 ∧ x = y) ∨ (o.ty = 1 ∧ x ≠ y) ∨ (o.ty = 2 ∧ x.toInt < y.toInt) ∨
        (o.ty = 3 ∧ y.toInt ≤ x.toInt) ∨ (o.ty = 4 ∧ x.toNat < y.toNat) ∨ (5 ≤ o.ty.toNat ∧ y.toNat ≤ x.toNat)
      (cond → exec (.brc o) s = .next (e.leave (.brc o) s (e.p.side.pc + 8 * o.off.signExtend 64))) ∧
      (¬cond → exec (.brc o) s = .next (e.finish (.brc o) s))) ∧
    (∀ o : FieldsB, 6 ≤ o.ty.toNat → (Instr.brc o).wf = false) ∧
    (∀ (o : FieldsB) (e : Env), s.taken (.loop o) = some e →
      let x := e.v.rs o.d.toNat - 1
      (x ≠ 0 → exec (.loop o) s = .next (e.leave (.loop o) (s.ws e.r.crew o.d.toNat x)
        (e.p.side.pc + 8 * o.off.signExtend 64))) ∧
      (x = 0 → exec (.loop o) s = .next (e.finish (.loop o) (s.ws e.r.crew o.d.toNat 0)))) ∧
    (∀ (o : FieldsR) (e : Env), s.taken (.ret o) = some e →
      (8 ∣ (e.v.rs o.sa.toNat).toNat → exec (.ret o) s = .next (e.leave (.ret o) s (e.v.rs o.sa.toNat))) ∧
      (¬ 8 ∣ (e.v.rs o.sa.toNat).toNat →
        exec (.ret o) s = .next (s.takeTrap e.r (e.mkTrap 7 0 (e.v.rs o.sa.toNat) .word)))) ∧
    (∀ (o : FieldsR) (e : Env), s.taken (.jmpi o) = some e →
      (8 ∣ (e.v.rs o.sa.toNat).toNat → exec (.jmpi o) s = .next (e.leave (.jmpi o) s (e.v.rs o.sa.toNat))) ∧
      (¬ 8 ∣ (e.v.rs o.sa.toNat).toNat →
        exec (.jmpi o) s = .next (s.takeTrap e.r (e.mkTrap 7 0 (e.v.rs o.sa.toNat) .word))))

/-- BRV (R39 to R41, R143): with no lane left out it jumps, with none taken it goes on; a single-path crew splits into two peers,
each of which waits where its address is the join, and which are one path again when both are; a peer nests: its lanes not taken are
pushed, and resume when the taken ones stand at the join. Of two peers the taken one is the handler path where the single path was,
and one path that they become again is it where a peer was, which are the model's choices (logs 31 and 147). The members and the EXM
of a path after a merge are those of the sides without the lanes that have ended, which is the model's reading of R39 to R41 (log
14, DEDUCED). An entry past the sixteenth spills into the top 1 KiB of the window; it is the trap of class 6, cause 1, when a view
maps that area as the first would spill, and of cause 2 past 128 entries; which views map it is the model's choice (log 85). Nothing
else changes: no scalar, mask, live lane, other register, other peer, or byte of memory.

EXIT (R13, R40, R146): the active lanes that the predicate names end; with lanes left the path goes on at the next clause. A side
without one ends whole: another side of its divergence resumes; a peer is gone, and the other goes on, or becomes the single path
where it waits at the join; a single path ends its crew, which the barriers of its core and its step group then judge (R50, R51,
R53). -/
def Obligations.DivergenceAndExit : Prop :=
  (∀ (o : FieldsBJ) (s : State) (e : Env), s.taken (.brv o) = some e →
     let tgt := e.p.side.pc + 8 * o.toff.signExtend 64
     let jn := e.p.side.pc + 8 * o.joff.signExtend 64
     let t := e.p.side.exm &&& (if o.ty = 0 then e.v.rk o.d.toNat else ~~~(e.v.rk o.d.toNat))
     let n := e.p.side.exm &&& ~~~t
     let next := e.p.nextClause
     (n = 0 → exec (.brv o) s = .next (e.leave (.brv o) s tgt)) ∧
     (n ≠ 0 → t = 0 → exec (.brv o) s = .next (e.finish (.brv o) s)) ∧
     (n ≠ 0 → t ≠ 0 → e.c.isSingle = true →
       ∃ u d, exec (.brv o) s = .next u ∧ s.leavesCrew u e.r.crew d ∧ e.c.agrees d ∧
         d.handler = e.c.handler.map (fun _ => if tgt = jn ∧ next = jn then .single else .taken) ∧
         (tgt ≠ jn ∨ next ≠ jn → ∃ a b, d.paths = .two (some a) (some b) ∧
           a.side.pc = tgt ∧ a.inside = false ∧ (a.wait = if tgt = jn then .atJoin else .none) ∧ a.side.exm = t ∧ a.side.members = t ∧
           b.side.pc = next ∧ b.inside = false ∧ (b.wait = if next = jn then .atJoin else .none) ∧ b.side.exm = n ∧ b.side.members = n ∧
           ∃ f g, a.side.frames = [f] ∧ b.side.frames = [g] ∧ f.join = jn ∧ g.join = jn ∧ f.div = g.div) ∧
         (tgt = jn → next = jn → ∃ q, d.paths = .one q ∧ q.readyAt jn ∧ q.side.exm = e.p.side.exm &&& e.c.live ∧
           q.side.members = e.c.live)) ∧
     (n ≠ 0 → t ≠ 0 → e.c.isSingle = false → e.c.entries < 16 →
       ∃ u d q, exec (.brv o) s = .next u ∧ s.leavesCrew u e.r.crew d ∧ e.c.agrees d ∧ d.path? e.r.sel = some q ∧
         (tgt ≠ jn ∨ (e.p.stack = [] ∧ e.p.side.frames ≠ [] ∧ (next = jn → ∀ f l, e.p.side.frames = f :: l → f.join ≠ jn)) →
           e.c.othersStay d e.r.sel) ∧
         (tgt ≠ jn → q.readyAt tgt ∧ q.side.exm = t ∧ q.side.members = t ∧
           ∃ f x, q.side.frames = f :: e.p.side.frames ∧ f.join = jn ∧ q.stack = x :: e.p.stack ∧ x.exm = n ∧ x.members = n ∧
             x.pc = next ∧ x.frames = q.side.frames ∧ x.reached = false) ∧
         (tgt = jn → next ≠ jn → e.p.stack = [] → e.p.side.frames ≠ [] → q.readyAt next ∧ q.side.exm = n ∧ q.side.members = n ∧
           ∃ y, q.stack = [y] ∧ y.exm = t ∧ y.members = t ∧ y.pc = jn ∧ y.frames = q.side.frames ∧ y.reached = true) ∧
         (tgt = jn → next = jn → e.p.stack = [] → e.p.side.frames ≠ [] → (∀ f l, e.p.side.frames = f :: l → f.join ≠ jn) →
           q.readyAt jn ∧ q.stack = [] ∧
           q.side.exm = e.p.side.exm &&& e.c.live ∧ q.side.members = e.p.side.members &&& e.c.live ∧
           q.side.frames = e.p.side.frames)) ∧
     (n ≠ 0 → t ≠ 0 → e.c.isSingle = false → 16 ≤ e.c.entries → e.c.entries < 128 → (e.c.entries = 16 → e.v.mapsSpill = false) →
       tgt ≠ jn → Memory.wf e.c.urs = true → 0 < e.c.win →
       ∃ u d q f x, exec (.brv o) s = .next u ∧ s.leavesCrew u e.r.crew d ∧
         d = { e.c with paths := d.paths, urs := d.urs } ∧ e.c.othersStay d e.r.sel ∧
         (∀ a, a < e.c.win * 4096 - 1024 ∨ e.c.win * 4096 ≤ a → Memory.read d.urs a = Memory.read e.c.urs a) ∧
         d.path? e.r.sel = some q ∧ q.readyAt tgt ∧ q.side.exm = t ∧ q.side.members = t ∧
         q.side.frames = f :: e.p.side.frames ∧ f.join = jn ∧ q.stack = x :: e.p.stack ∧ x.exm = n ∧ x.members = n ∧ x.pc = next ∧
         x.frames = q.side.frames ∧ x.reached = false) ∧
     (n ≠ 0 → t ≠ 0 → e.c.isSingle = false → e.c.entries = 16 → e.v.mapsSpill = true →
       exec (.brv o) s = .next (s.takeTrap e.r (e.mkTrap 6 1 e.w .word))) ∧
     (n ≠ 0 → t ≠ 0 → e.c.isSingle = false → 128 ≤ e.c.entries →
       exec (.brv o) s = .next (s.takeTrap e.r (e.mkTrap 6 2 e.w .word)))) ∧
  (∀ (o : FieldsI) (s : State) (e : Env), s.taken (.exit o) = some e → (∀ q, q ∈ e.c.allPaths → ∀ t, q.2.wait ≠ .held t) →
     let x := e.p.side.exm &&& e.v.rk o.pred.toNat
     let left := e.c.live &&& ~~~x
     let rest := left &&& ~~~e.p.side.members
     let kept (d : Crew) (live : Mask) : Prop := d = { e.c with paths := d.paths, handler := d.handler, live := live }
     let bit : Option PathSel := if e.c.handler = some e.r.sel then none else e.c.handler
     (e.p.side.exm &&& ~~~x ≠ 0 → left ≠ 0 → (∀ f l, e.p.side.frames = f :: l → f.join ≠ e.p.nextClause) →
       ∃ u d q, exec (.exit o) s = .next u ∧ s.leavesCrew u e.r.crew d ∧ kept d left ∧ e.c.othersStay d e.r.sel ∧
         d.path? e.r.sel = some q ∧ q.readyAt e.p.nextClause ∧ q.side.exm = e.p.side.exm &&& ~~~x ∧
         q.side.members = e.p.side.members &&& ~~~x ∧
         q.stack = e.p.stack) ∧
     (e.p.side.exm &&& ~~~x = 0 → e.c.isSingle = true → e.p.side.frames = [] →
       ∃ t d, s.leavesCrew t e.r.crew d ∧ d = { e.c with paths := d.paths, handler := bit, live := 0, state := .ending } ∧
         exec (.exit o) s = .next ((t.judgeEnd d).stepCheck (t.stepKey d))) ∧
     (∀ f g l y, e.p.side.exm &&& ~~~x = 0 → rest ≠ 0 → e.p.side.frames = f :: g :: l → e.p.stack = [y] → y.inDiv f.div = true →
       y.reached = false → (∀ h m, y.frames = h :: m → h.join ≠ y.pc) →
       ∃ u d q, exec (.exit o) s = .next u ∧ s.leavesCrew u e.r.crew d ∧ kept d rest ∧ e.c.othersStay d e.r.sel ∧
         d.path? e.r.sel = some q ∧ q.readyAt y.pc ∧ q.side.exm = y.exm ∧ q.side.members = y.members ∧ q.stack = []) ∧
     (∀ f b, e.p.side.exm &&& ~~~x = 0 → rest ≠ 0 → e.p.side.frames = [f] →
       ((e.r.sel = .taken ∧ e.c.paths = .two (some e.p) (some b)) ∨ (e.r.sel = .notTaken ∧ e.c.paths = .two (some b) (some e.p))) →
       ∃ u d, exec (.exit o) s = .next u ∧ s.leavesCrew u e.r.crew d ∧ kept d rest ∧
         (b.wait ≠ .atJoin → d.handler = bit ∧ ∃ b', d.paths = (if e.r.sel = .taken then .two none (some b') else .two (some b') none) ∧
           b'.side = b.side ∧ b'.stack = b.stack ∧ b'.wait = b.wait ∧ b'.words = b.words ∧ b'.idx = b.idx ∧
           b'.inside = b.inside) ∧
         (b.wait = .atJoin → d.handler = bit.map (fun _ => .single) ∧ ∃ q, d.paths = .one q ∧ q.readyAt b.side.pc ∧
           q.side.exm = b.side.members &&& rest ∧
           q.side.members = rest)))

/-- PAUSE (R46, R47, R147): the count form lowers the priority of its path for its count of cycles; the address form waits for a
write to the granule it watches, of G by any agent or a plain store of its own core, and acts as the count form when the address is
not mapped readable; that a lowered priority ends no sooner for a later PAUSE, PAUSE 0 included, is the model's choice (log 87).
Either yields to an entry that has not reached its join; that it does so at once, and not at its next issue, is the model's choice
(log 32). It yields too where its clause ends at the JOIN of its side: parked there, or merged with the side that waited for it, the
path goes on with the entry of an outer divergence. A count that ends, or a spurious wake-up, ends the wait; WORD_COMPLETE takes an
instruction out of flight (R72). -/
def Obligations.Pauses : Prop :=
  (∀ (o : FieldsI) (s : State) (e : Env), s.taken (.pause o) = some e → e.p.side.frames = [] → e.p.stack = [] →
    ∃ u q, exec (.pause o) s = .next u ∧ u.path? e.r = some q ∧ q.readyAt e.p.nextClause ∧ u.g = s.g ∧
      q.lowUntil = laterEnd e.p.lowUntil (if o.imm = 0 then none else some (s.cycles + o.imm.toNat))) ∧
  (∀ (t u : Nat), laterEnd none none = none ∧ laterEnd (some t) none = some t ∧ laterEnd none (some t) = some t ∧
    laterEnd (some t) (some u) = some (max t u)) ∧
  (∀ (o : FieldsI) (s : State) (e : Env) (g : Nat), s.taken (.pauseW o) = some e → e.p.side.frames = [] → e.p.stack = [] →
    s.watched e.c.core (e.v.rs o.sa.toNat).toNat = some g →
    ∃ u q, exec (.pauseW o) s = .next u ∧ u.path? e.r = some q ∧ q.side.pc = e.p.nextClause ∧ q.inside = false ∧
      q.wait = .paused (some g) (if o.imm = 0 then none else some (s.cycles + o.imm.toNat)) ∧ q.lowUntil = e.p.lowUntil ∧ u.g = s.g) ∧
  (∀ (o : FieldsI) (s : State) (e : Env), s.taken (.pauseW o) = some e → e.p.side.frames = [] → e.p.stack = [] →
    s.watched e.c.core (e.v.rs o.sa.toNat).toNat = none →
    ∃ u q, exec (.pauseW o) s = .next u ∧ u.path? e.r = some q ∧ q.readyAt e.p.nextClause ∧
      q.lowUntil = laterEnd e.p.lowUntil (if o.imm = 0 then none else some (s.cycles + o.imm.toNat))) ∧
  (∀ (o : FieldsI) (s : State) (e : Env) (g : Nat) (x : Side), s.taken (.pauseW o) = some e →
    s.watched e.c.core (e.v.rs o.sa.toNat).toNat = some g → e.p.stack = [x] → x.reached = false →
    (∀ f l, e.p.side.frames = f :: l → f.join ≠ e.p.nextClause) → (∀ f l, x.frames = f :: l → f.join ≠ x.pc) →
    ∃ u q, exec (.pauseW o) s = .next u ∧ u.path? e.r = some q ∧ q.side.pc = x.pc ∧ q.side.exm = x.exm ∧ q.inside = false ∧
      q.wait = .paused (some g) (if o.imm = 0 then none else some (s.cycles + o.imm.toNat))) ∧
  (∀ (o : FieldsI) (s : State) (e : Env) (x : Side), s.taken (.pause o) = some e → e.p.stack = [x] → x.reached = false →
    (∀ f l, e.p.side.frames = f :: l → f.join ≠ e.p.nextClause) → (∀ f l, x.frames = f :: l → f.join ≠ x.pc) →
    ∃ u q y, exec (.pause o) s = .next u ∧ u.path? e.r = some q ∧ q.readyAt x.pc ∧ q.side.exm = x.exm ∧ q.stack = [y] ∧
      y.exm = e.p.side.exm ∧ y.pc = e.p.nextClause ∧ y.reached = false) ∧
  (∀ (o : FieldsI) (s : State) (i : Instr) (w : Wait) (e : Env) (f g : Frame) (l : List Frame) (x z : Side), s.taken i = some e →
    ((i = .pause o ∧ w = .none) ∨ ∃ n, i = .pauseW o ∧ s.watched e.c.core (e.v.rs o.sa.toNat).toNat = some n ∧
      w = .paused (some n) (if o.imm = 0 then none else some (s.cycles + o.imm.toNat))) →
    e.joinsUnder f g l z → e.p.stack = [x, z] →
    (x.inDiv f.div = true → x.reached = false → (∀ h m, x.frames = h :: m → h.join ≠ x.pc) → z.pushed < x.pushed →
      x.pushed < s.stamp →
      ∃ u q a b, exec i s = .next u ∧ u.path? e.r = some q ∧ q.side.pc = z.pc ∧ q.side.exm = z.exm ∧ q.inside = false ∧
        q.wait = w ∧ q.stack = [a, b] ∧ a.exm = x.exm ∧ a.pc = x.pc ∧ a.reached = false ∧ b.exm = e.p.side.exm ∧
        b.pc = e.p.nextClause ∧ b.reached = true) ∧
    (x.waitsAt f.div = true → g.join ≠ e.p.nextClause →
      ∃ u q a, exec i s = .next u ∧ u.path? e.r = some q ∧ q.side.pc = z.pc ∧ q.side.exm = z.exm ∧ q.inside = false ∧
        q.wait = w ∧ q.stack = [a] ∧ a.frames = g :: l ∧ a.members = f.outer &&& e.c.live ∧ a.pc = e.p.nextClause ∧
        a.reached = false)) ∧
  (∀ (s : State) (r : PathRef) (p : Path) (g : Option Nat) (t : Nat), s.path? r = some p → p.wait = .paused g (some t) →
    t ≤ s.cycles → ∃ u q, exec (.pauseCountExpiry r) s = .next u ∧ u.path? r = some q ∧ q.wait = .none ∧ q.side = p.side) ∧
  (∀ (s : State) (r : PathRef) (p : Path) (t : Nat), s.path? r = some p → p.lowUntil = some t → t ≤ s.cycles →
    ∃ u q, exec (.pauseCountExpiry r) s = .next u ∧ u.path? r = some q ∧ q.lowUntil = none) ∧
  (∀ (s : State) (r : PathRef) (c : Crew) (p : Path) (g : Nat) (x : Option Nat) (ws : List (Nat × Byte)), s.crew? r.crew = some c →
    c.path? r.sel = some p → p.wait = .paused (some g) x →
    ((∃ q, q ∈ ws ∧ q.1 / 64 = g) →
      (s.gWrite ws).path? r = some { p with wait := .none } ∧ (s.imgWrite c.core ws).path? r = some { p with wait := .none }) ∧
    ((∀ q, q ∈ ws → q.1 / 64 ≠ g) → (s.gWrite ws).path? r = some p ∧ (s.imgWrite c.core ws).path? r = some p) ∧
    (∀ k, k ≠ c.core → (s.imgWrite k ws).path? r = some p)) ∧
  (∀ (s : State) (r : PathRef) (p : Path) (g x : Option Nat), s.path? r = some p → p.wait = .paused g x →
    ∃ u, exec (.spuriousWakeUp r) s = .next u ∧ u.path? r = some { p with wait := .none }) ∧
  (∀ (s : State) (r : PathRef) (p : Path) (n : Nat), s.path? r = some p →
    ∃ u, exec (.wordComplete r n) s = .next u ∧ u.path? r = some { p with flights := p.flights.eraseIdx n })

/-! ### Traps -/

/-- TRAP raises class 13 with CODE and TRAPV and resumes after the word; HALT is a debug stop when DBGCTL.HEN is 1, and else acts as
trap 0x3FFFFF with s63 (R357). -/
def Obligations.TrapAndHalt : Prop :=
  (∀ (o : FieldsS) (s : State) (e : Env), s.taken (.trap o) = some e →
    exec (.trap o) s = .next (s.takeTrap e.r
      { slate := s.slate, cls := 13, cause := 0, val := e.v.rs o.ss.toNat, code := o.imm.toNat, word := e.p.idx, inst := e.w, resume := .after,
        batch := none, bar := none })) ∧
  (∀ (s : State) (e : Env), s.taken .halt = some e →
    (s.dbg.hen = true → exec .halt s = .next { s with dbg := { s.dbg with stopped := true } }) ∧
    (s.dbg.hen = false → exec .halt s = .next (s.takeTrap e.r
      { slate := s.slate, cls := 13, cause := 0, val := 0, code := 0x3FFFFF, word := e.p.idx, inst := e.w, resume := .after, batch := none,
        bar := none })))

/-- Taking a trap in a region whose fault policy is the handler (R349 to R353): TRAPC, TRAPV and TRAPPC are written, the handler bit
is set, the path goes to HANDLER with its lanes unchanged, and nothing else changes: no register, no memory, no other path, no other
crew. A batch whose fault is so delivered leaves the outstanding set, and its record has the position of the delivery (R349, R355;
log 54, DEDUCED); while the trap is held for the other peer neither happens, nor anything else.

Taking a trap under the other fault policies (R20, R353, R368): with FPOL 0 the region terminates with ERR the class, with FPOL 1 it
is suspended; the event is posted, or dropped and counted when the event queue is off or full. A trap of the handler path is a
double trap: the region terminates with ERR 14 and the trap registers keep their values (R354). A region that has taken a trap, or
that neither runs nor is suspended, delivers none: the path stops at its resume point; that one which only the host has suspended
does deliver is the model's choice (log 88). -/
def Obligations.TakingTraps : Prop :=
  (∀ (s : State) (r : PathRef) (c : Crew) (g : Region) (p : Path) (t : Trap),
     s.crew? r.crew = some c → s.region? c.region = some g → c.path? r.sel = some p → g.takesTraps = true →
     c.handler = none → g.rcb.fpol = 2 →
     let u := s.takeTrap r t
     (t.batch = none → s.onlyCrew u r.crew) ∧ (∀ k, k ≠ r.crew → u.crew? k = s.crew? k) ∧ u.g = s.g ∧ u.cores = s.cores ∧
     ∃ d q, u.crew? r.crew = some d ∧ (t.batch = none → d.batches = c.batches) ∧
       (∀ b, t.batch = some b → (∀ x, x ∈ d.batches.sealedB ↔ x ∈ c.batches.sealedB ∧ x.serial ≠ b) ∧
         (∀ f, look b c.batches.recs = some f →
           look b d.batches.recs = some { f with trapc := d.sys.trapc, trappc := d.sys.trappc })) ∧
       (∀ k, k ≠ r.sel → d.path? k = c.path? k) ∧ d.path? r.sel = some q ∧ d.handler = some r.sel ∧
       q.readyAt g.rcb.handler ∧ q.side.exm = p.side.exm ∧ q.side.members = p.side.members ∧ q.stack = p.stack ∧
       d.sys.trapc.toNat % 2 ^ 8 = t.cls % 2 ^ 8 ∧ d.sys.trapc.toNat / 2 ^ 8 % 2 ^ 8 = t.cause % 2 ^ 8 ∧
       d.sys.trapc.toNat / 2 ^ 18 % 4 = selCode r.sel ∧ d.sys.trapc.toNat / 2 ^ 20 % 16 = t.word % 16 ∧
       d.sys.trapc.toNat / 2 ^ 42 = t.code % 2 ^ 22 ∧ d.sys.trapv = t.val ∧
       (t.resume = .word → p.idx < 16 → d.sys.trappc =
         BitVec.ofNat 64 (p.idx * 2 ^ 60) ||| (p.side.pc &&& 0x01FFFFFFFFFFFFF8)) ∧
       (t.resume = .clause → d.sys.trappc = p.side.pc &&& 0x01FFFFFFFFFFFFF8) ∧
       d.s = c.s ∧ d.k = c.k ∧ d.urs = c.urs ∧ d.views = c.views ∧ d.tags = c.tags ∧ d.acc = c.acc ∧ d.live = c.live) ∧
  (∀ (s : State) (r : PathRef) (c : Crew) (g : Region) (p : Path) (t : Trap),
     s.crew? r.crew = some c → s.region? c.region = some g → c.path? r.sel = some p → g.state = .running → g.ending = none →
     g.trapped = false → g.rcb.fdom = 0 → t.bar = none →
     let u := s.takeTrap r t
     (c.handler = none → g.rcb.fpol = 0 → ∃ g', u.region? g.id = some g' ∧ g'.state = .terminating ∧ g'.err = t.cls) ∧
     (c.handler = none → g.rcb.fpol = 1 → ∃ g', u.region? g.id = some g' ∧ g'.state = .suspended) ∧
     (c.handler = none → g.rcb.fpol ≠ 2 →
       (s.events.drops = true → u.events = { s.events with ovf := s.events.ovf + 1 }) ∧
       (s.events.drops = false → u.events = { s.events with tail := s.events.tail + 1, msix := s.events.msix + 1 })) ∧
     (c.handler = some r.sel → (∃ g', u.region? g.id = some g' ∧ g'.state = .terminating ∧ g'.err = 14) ∧
       ∃ d, u.crew? r.crew = some d ∧ d.sys = c.sys)) ∧
  (∀ (s : State) (r : PathRef) (c : Crew) (g : Region) (p : Path) (t : Trap),
     s.crew? r.crew = some c → s.region? c.region = some g → c.path? r.sel = some p →
     (g.takesTraps = false → s.takeTrap r t = s.placeAt r t.resume) ∧
     (∀ h, g.takesTraps = true → c.handler = some h → h ≠ r.sel →
       s.takeTrap r t = s.updPath r (fun x => { x with wait := .held t, cont := none })) ∧
     (g.takesTraps = ((g.state == .running || g.state == .suspended) && !g.trapped)))

/-- The dynamic checks 1 to 3 come before any effect (R107, R118, R349), for a word under its crew's own views: a word that names a
register its view does not map is the illegal-instruction trap, cause 1; a pair word whose halves conflict is the pairing trap of
the condition that fails, of the first in the model's order where several do (log 115); a crew-wide word of a crew that is split, or
that has an inactive live lane, is the illegal-convergence trap, cause 1 or 2. A word that is issued again, which was checked at its
hand-off, is taken without these checks (log 91, DEDUCED). A word held back by the scoreboard, or a matrix word while the array runs
another crew's product, changes nothing (R72, R239). -/
def Obligations.DynamicChecks : Prop :=
  ∀ (i : Instr) (s : State) (e : Env), (encode i).isSome → s.env? i = some e → e.own = none →
    (e.blocked i = true → exec i s = .next s) ∧
    (matrixWord i = true → e.arrayBusy = true → e.blocked i = true) ∧
    (e.blocked i = false → e.p.cont ≠ none → s.taken i = some e) ∧
    (e.blocked i = false → e.p.cont = none → (uses i).any (fun u => u.kind.wide && !e.v.mapped u.kind u.num) = true →
      exec i s = .next (s.takeTrap e.r (e.mkTrap 1 1 e.w .word))) ∧
    (∀ o k, i = .pairWord o → e.blocked i = false → e.p.cont = none →
      (uses i).any (fun u => u.kind.wide && !e.v.mapped u.kind u.num) = false → e.v.pairFault o = some k →
      exec i s = .next (s.takeTrap e.r (e.mkTrap 3 k e.w .word))) ∧
    (e.blocked i = false → e.p.cont = none → (uses i).any (fun u => u.kind.wide && !e.v.mapped u.kind u.num) = false →
      crewWide i = true →
      (e.c.isSingle = false → exec i s = .next (s.takeTrap e.r (e.mkTrap 5 1 e.w .word))) ∧
      (e.c.isSingle = true → e.p.side.exm ≠ e.c.live → exec i s = .next (s.takeTrap e.r (e.mkTrap 5 2 e.w .word))))

/-- ERET (R351, R354, R359): outside the handler path it is the illegal-instruction trap; in it, of a single path or of one of two
peers, the handler bit is cleared and the path resumes at the point held in TRAPPC: at the clause for WORD 0, inside it above 0,
past its last word at the next clause, none of its words being fetched. A resume address without a valid header is a double trap. A
fault of the words of the clause, after a valid header, is the resumed path's own at (H, WORD), which is the model's choice (log
140). A trap held for the other peer is then delivered, and that peer is the handler path; so it is when the handler path's last
lane exits. -/
def Obligations.HandlerReturn : Prop :=
  (∀ (s : State) (e : Env), s.taken .eret = some e →
    let h : Word := e.v.sys.trappc &&& 0x01FFFFFFFFFFFFF8
    let i := e.v.sys.trappc.toNat / 2 ^ 60
    let unheld : Prop := ∀ q, q ∈ e.c.allPaths → ∀ t, q.2.wait ≠ .held t
    (e.c.handler ≠ some e.r.sel → exec .eret s = .next (s.takeTrap e.r (e.mkTrap 1 1 e.w .word))) ∧
    (∀ hdr, e.c.handler = some e.r.sel → s.fetchWord e.c.core e.c.region 0 h.toNat = .ok hdr → headerFault hdr = none →
      let back (u : State) (d : Crew) (q : Path) : Prop :=
        exec .eret s = .next u ∧ u.crew? e.r.crew = some d ∧ d = { e.c with paths := d.paths, handler := none } ∧
        (∀ k, k ≠ e.r.sel → d.path? k = e.c.path? k) ∧ d.path? e.r.sel = some q ∧ q.side.exm = e.p.side.exm ∧
        q.stack = e.p.stack ∧ u.g = s.g
      (unheld → i = 0 → (∀ f l, e.p.side.frames = f :: l → f.join ≠ h) → ∃ u d q, back u d q ∧ q.readyAt h) ∧
      (unheld → hdrCount hdr < i → (∀ f l, e.p.side.frames = f :: l → f.join ≠ nextSeq h hdr) →
        ∃ u d q, back u d q ∧ q.readyAt (nextSeq h hdr)) ∧
      (∀ ws, unheld → 0 < i → i ≤ hdrCount hdr → s.fetchWords e.c.core e.c.region (hdrCount hdr + 1) 1 (h.toNat + 8) = .ok ws →
        ∃ u d q, back u d q ∧ q.inside = true ∧ q.side.pc = h ∧ q.hdr = hdr ∧ q.words = ws ∧ q.idx = i ∧ q.wait = .none) ∧
      (∀ f, unheld → 0 < i → i ≤ hdrCount hdr → s.fetchWords e.c.core e.c.region (hdrCount hdr + 1) 1 (h.toNat + 8) = .error f →
        (f.replayable = true →
          ∃ u d q, back u d q ∧ q.inside = true ∧ q.side.pc = h ∧ q.hdr = hdr ∧ q.idx = i ∧ q.wait = .fault f s.now) ∧
        (∀ g, f.replayable = false → s.region? e.c.region = some g → g.takesTraps = true → g.rcb.fpol = 2 →
          ∃ u d q, exec .eret s = .next u ∧ u.crew? e.r.crew = some d ∧ d.handler = some e.r.sel ∧ d.path? e.r.sel = some q ∧
            q.readyAt g.rcb.handler ∧ d.sys.trappc = BitVec.ofNat 64 (i * 2 ^ 60) ||| h ∧ d.sys.trapv = f.va ∧
            d.sys.trapc.toNat % 2 ^ 8 = f.cls % 2 ^ 8)) ∧
      (∀ g t k p, s.region? e.c.region = some g → g.takesTraps = true → g.rcb.fpol = 2 → e.c.path? k = some p → k ≠ e.r.sel →
        p.wait = .held t → i = 0 → (∀ f l, e.p.side.frames = f :: l → f.join ≠ h) →
        ∃ u d q x, exec .eret s = .next u ∧ u.crew? e.r.crew = some d ∧ d.handler = some k ∧ d.path? k = some q ∧
          q.readyAt g.rcb.handler ∧ q.side.exm = p.side.exm ∧ d.sys.trapv = t.val ∧ d.sys.trapc.toNat % 2 ^ 8 = t.cls % 2 ^ 8 ∧
          d.path? e.r.sel = some x ∧ x.readyAt h ∧ x.side.exm = e.p.side.exm)) ∧
    (∀ hdr k g, e.c.handler = some e.r.sel → s.region? e.c.region = some g → s.fetchWord e.c.core e.c.region 0 h.toNat = .ok hdr →
      headerFault hdr = some k → exec .eret s = .next (s.doubleTrap e.r e.c g (clauseTrap s.slate 2 k hdr 0 hdr)))) ∧
  (∀ (o : FieldsI) (s : State) (e : Env) (g : Region) (f : Frame) (b : Path) (t : Trap), s.taken (.exit o) = some e →
    e.c.handler = some e.r.sel → s.region? e.c.region = some g → g.takesTraps = true → g.rcb.fpol = 2 →
    e.p.side.exm &&& ~~~(e.v.rk o.pred.toNat) = 0 → e.c.live &&& ~~~e.p.side.exm &&& ~~~e.p.side.members ≠ 0 →
    e.p.side.frames = [f] → b.wait = .held t →
    ((e.r.sel = .taken ∧ e.c.paths = .two (some e.p) (some b)) ∨ (e.r.sel = .notTaken ∧ e.c.paths = .two (some b) (some e.p))) →
    ∃ u d q, exec (.exit o) s = .next u ∧ u.crew? e.r.crew = some d ∧ d.handler = some (otherSel e.r.sel) ∧
      d.path? (otherSel e.r.sel) = some q ∧ d.path? e.r.sel = none ∧ q.readyAt g.rcb.handler ∧ q.side.exm = b.side.exm ∧
      d.sys.trapv = t.val ∧ d.sys.trapc.toNat % 2 ^ 8 = t.cls % 2 ^ 8)

/-! ### Memory -/

/-- Plain loads and stores of a core (R199): a store is read back by its own core, changes no other byte that its core reads, no
byte that another core reads, and nothing in the package's memory; a publish takes the dirty bytes to memory and nothing else; a
refresh makes every byte that is not dirty read as memory does. -/
def Obligations.ImagesOfCores : Prop :=
  ∀ (s : State) (core : Nat) (pas : List Nat) (x : List Byte), s.memoryOk → core < s.cores.length →
    (pas.Nodup → x.length = pas.length →
      let t := s.plainStore core ((pas.map Loc.mem).zip x)
      t.plainLoad core (pas.map Loc.mem) = x ∧ t.g = s.g ∧
      (∀ a, a ∉ pas → t.plainByte core a = s.plainByte core a) ∧
      (∀ k a, k ≠ core → t.plainByte k a = s.plainByte k a) ∧ s.keepsCrews t) ∧
    (let t := s.publish core
     (t.core core).dirty = [] ∧
     (∀ a, a ∈ (s.core core).dirty → Memory.read t.g a = s.plainByte core a) ∧
     (∀ a, a ∉ (s.core core).dirty → Memory.read t.g a = Memory.read s.g a) ∧
     (∀ k a, t.plainByte k a = s.plainByte k a)) ∧
    (let t := s.refresh core
     t.g = s.g ∧ (t.core core).dirty = (s.core core).dirty ∧
     (∀ a, a ∈ (s.core core).dirty → t.plainByte core a = s.plainByte core a) ∧
     (∀ a, a ∉ (s.core core).dirty → t.plainByte core a = Memory.read s.g a) ∧
     (∀ k a, k ≠ core → t.plainByte k a = s.plainByte k a))

/-- LD, ST, LDA and STL (R199, R204, R219, R222, R371) on addresses that translate: where the value comes from or goes to. An
aligned ST or STL of eight bytes to a wake register is a wake store; of another size or alignment nothing of it is stored and the
queue's WERR is set. An LDA or STL that is not naturally aligned is the misalignment trap. -/
def Obligations.ScalarAccesses : Prop :=
  ∀ (o : FieldsM) (s : State) (e : Env) (ls : List Loc),
    let a := e.v.rs o.base.toNat + BitVec.ofInt 64 o.off.toInt
    let n := 8 / 2 ^ (o.md.toNat % 4)
    let ext (x : Nat) : Word := if 5 ≤ o.md.toNat then wordOf (sextInt (8 * n) x) else BitVec.ofNat 64 x
    let vas := span a.toNat n
    (s.taken (.ld o) = some e → s.locs e.c.core e.c.region .load false vas = .ok ls →
      exec (.ld o) s = .next (e.finish (.ld o) (((s.tlbFill e.c.core vas).wakeErrors ls).ws e.r.crew o.dst.toNat
        (ext (ofBytes ((s.tlbFill e.c.core vas).plainLoad e.c.core ls)))))) ∧
    (s.taken (.st o) = some e → s.locs e.c.core e.c.region .store false vas = .ok ls →
      (wakePart ls = [] ∨ n ≠ 8 ∨ a.toNat % 8 ≠ 0) →
      exec (.st o) s = .next (e.finish (.st o) ((s.tlbFill e.c.core vas).plainStore e.c.core
        (ls.zip (toBytes n (e.v.rs o.dst.toNat).toNat))))) ∧
    (∀ k q, s.taken (.st o) = some e → s.locs e.c.core e.c.region .store false vas = .ok ls → wakePart ls = [(k, q)] →
      n = 8 → a.toNat % 8 = 0 →
      exec (.st o) s = .next (e.finish (.st o) ((s.tlbFill e.c.core vas).wakeBy e.c.core k q (e.v.rs o.dst.toNat)))) ∧
    (s.taken (.lda o) = some e → a.toNat % n = 0 → s.locs e.c.core e.c.region .load (o.scope == 6) vas = .ok ls →
      let q := (s.tlbFill e.c.core vas).sync e.c.core (wideScope o.scope) false (isAcquire o.ord) ls (fun _ => none)
      exec (.lda o) s = .next (e.finish (.lda o) ((q.1.wakeErrors ls).ws e.r.crew o.dst.toNat (ext q.2)))) ∧
    (s.taken (.stl o) = some e → a.toNat % n = 0 → s.locs e.c.core e.c.region .store (o.scope == 6) vas = .ok ls →
      (wakePart ls = [] ∨ n ≠ 8) →
      exec (.stl o) s = .next (e.finish (.stl o) (((s.tlbFill e.c.core vas).sync e.c.core (wideScope o.scope)
        (isRelease o.ord) false ls (fun _ => some (e.v.rs o.dst.toNat).toNat)).1.wakeErrors ls))) ∧
    (∀ k q, s.taken (.stl o) = some e → a.toNat % n = 0 → s.locs e.c.core e.c.region .store (o.scope == 6) vas = .ok ls →
      wakePart ls = [(k, q)] → n = 8 →
      exec (.stl o) s = .next (e.finish (.stl o) ((s.tlbFill e.c.core vas).wakeBy e.c.core k q (e.v.rs o.dst.toNat)))) ∧
    (∀ (u : State) (core : Nat) (ws : List (Loc × Byte)), (∀ x, x ∈ ws → ∃ k q, x.1 = .wake k q) →
      u.plainStore core ws = u.wakeErrors (ws.map (fun x => x.1)) ∧ u.crewStore core ws = u.noted []) ∧
    (∀ (u : State) (q : Nat), q < u.queues.length → (u.wakeErrors ls).queue q =
      { u.queue q with werr := (u.queue q).werr || decide ((u.pkgId.toNat, q) ∈ wakePart ls) }) ∧
    (s.taken (.lda o) = some e → a.toNat % n ≠ 0 → exec (.lda o) s = .next (s.takeTrap e.r (e.mkTrap 7 0 a .word))) ∧
    (s.taken (.stl o) = some e → a.toNat % n ≠ 0 → exec (.stl o) s = .next (s.takeTrap e.r (e.mkTrap 7 0 a .word)))

/-- A plain LD or ST of ordinary memory, with its frame (R199, R222): LD writes s[D] from the bytes that its core reads and changes
no byte of memory; ST changes the bytes at its address as its core reads them, and no register and no other byte. A path that
watches the bytes stored is woken; the paths are else as Env.finish leaves them. -/
def Obligations.LoadAndStoreFrames : Prop :=
  ∀ (o : FieldsM) (s : State) (e : Env) (pas : List Nat), s.memoryOk → e.c.core < s.cores.length → pas.Nodup →
    let n := Machine.sizeOf o.md
    let vas := span (addrA e.v o).toNat n
    (s.taken (.ld o) = some e → s.locs e.c.core e.c.region .load false vas = .ok (pas.map Loc.mem) →
      ∃ t, exec (.ld o) s = .next (e.finish (.ld o) t) ∧
        t.crew? e.r.crew = some (e.c.ws o.dst.toNat (loadExt o.md (ofBytes (pas.map (s.plainByte e.c.core))))) ∧
        (∀ k, k ≠ e.r.crew → t.crew? k = s.crew? k) ∧ t.g = s.g ∧ ∀ k a, t.plainByte k a = s.plainByte k a) ∧
    (s.taken (.st o) = some e → s.locs e.c.core e.c.region .store false vas = .ok (pas.map Loc.mem) →
      ∃ t, exec (.st o) s = .next (e.finish (.st o) t) ∧ s.keepsCrews t ∧ t.g = s.g ∧
        pas.map (t.plainByte e.c.core) = toBytes n (e.v.rs o.dst.toNat).toNat ∧
        (∀ a, a ∉ pas → t.plainByte e.c.core a = s.plainByte e.c.core a) ∧
        (∀ k a, k ≠ e.c.core → t.plainByte k a = s.plainByte k a))

/-- AT, ACAS and VAT (R203, R223, R227) on aligned addresses that translate: one synchronising access, or one for each active lane
in ascending order, with the old value returned; ACAS writes only when the old value is the compared one. An 8-byte exchange with a
wake register is a wake store and returns 0 (R371). A misaligned address is the misalignment trap; of a VAT the trap names the
lowest misaligned lane, which is the model's choice (log 26); so is that a VAT without an active lane neither publishes nor
refreshes, whatever its ORD (log 129). -/
def Obligations.Atomics : Prop :=
  ∀ (o : FieldsM) (s : State) (e : Env) (ls : List Loc),
    let n := atomBytes o.ty
    let x (r : Nat) : Nat := (e.v.rs r).toNat % 2 ^ (8 * n)
    let w := wideScope o.scope
    (let a := addrA e.v o
     let t := s.tlbFill e.c.core (span a.toNat n)
     (s.taken (.at o) = some e → a.toNat % n = 0 →
        s.locs e.c.core e.c.region .atomic (o.scope == 6) (span a.toNat n) = .ok ls → wakePart ls = [] →
        let q := t.sync e.c.core w (isRelease o.ord) (isAcquire o.ord) ls
          (fun old => some (atomNew o.ty o.md.toNat old (x o.dst.toNat)))
        exec (.at o) s = .next (e.finish (.at o) ((q.1.wakeErrors ls).ws e.r.crew o.dst.toNat (atomExt o.ty q.2)))) ∧
     (∀ k m, s.taken (.at o) = some e → a.toNat % n = 0 →
        s.locs e.c.core e.c.region .atomic (o.scope == 6) (span a.toNat n) = .ok ls → o.md = 7 → n = 8 → wakePart ls = [(k, m)] →
        let u := t.wakeBy e.c.core k m (e.v.rs o.dst.toNat)
        exec (.at o) s = .next (e.finish (.at o) ((if w && isAcquire o.ord then u.refresh e.c.core else u).ws e.r.crew
          o.dst.toNat 0))) ∧
     (s.taken (.at o) = some e → a.toNat % n ≠ 0 → exec (.at o) s = .next (s.takeTrap e.r (e.mkTrap 7 0 a .word)))) ∧
    (let a := addrB e.v o
     let t := s.tlbFill e.c.core (span a.toNat n)
     (s.taken (.acas o) = some e → a.toNat % n ≠ 0 → exec (.acas o) s = .next (s.takeTrap e.r (e.mkTrap 7 0 a .word))) ∧
     (s.taken (.acas o) = some e → a.toNat % n = 0 →
        s.locs e.c.core e.c.region .atomic (o.scope == 6) (span a.toNat n) = .ok ls →
        let hit : Bool := (t.sync e.c.core w false false ls (fun _ => none)).2 == x (xrOf o)
        let q := t.sync e.c.core w (isRelease o.ord && hit) (isAcquire o.ord) ls
          (fun old => if old = x (xrOf o) then some (x o.dst.toNat) else none)
        exec (.acas o) s = .next (e.finish (.acas o)
          ((q.1.wakeErrors ls).ws e.r.crew o.dst.toNat (atomExt o.ty q.2))))) ∧
    (let act := maskLanes (activeMask e.v e.p.side.exm o.pred)
     (s.taken (.vat o) = some e → act = [] → exec (.vat o) s = .next (e.finish (.vat o) s)) ∧
     (s.taken (.vat o) = some e → act ≠ [] → (∀ i, i ∈ act → (laneAddr e.v o i).toNat % n = 0) →
        s.locs e.c.core e.c.region .atomic false (act.flatMap (vatSpan e o)) = .ok ls →
        let t := s.tlbFill e.c.core (act.flatMap (vatSpan e o))
        let q := vatLanes e o (act.zip (pieces n act.length ls)) (if w && isRelease o.ord then t.publish e.c.core else t) []
        let t2 := if w && isAcquire o.ord then q.1.refresh e.c.core else q.1
        exec (.vat o) s = .next (e.finish (.vat o) (t2.updCrew e.r.crew (fun c => q.2.foldl (fun d x =>
          d.wrNat (atomKind o.ty) o.dst.toNat (x.1 * (atomKind o.ty).laneBytes) n x.2) c)))) ∧
     (∀ l i m, s.taken (.vat o) = some e → act = l ++ i :: m → (∀ j, j ∈ l → (laneAddr e.v o j).toNat % n = 0) →
        (laneAddr e.v o i).toNat % n ≠ 0 →
        exec (.vat o) s = .next (s.takeTrap e.r (e.mkTrap 7 0 (laneAddr e.v o i) .word))))

/-- A synchronising access at a wide scope is performed on the package's memory (R204): the old value is what memory holds there
once the core's own dirty bytes of that place have been taken to it; afterwards memory and the core's image hold the new value, and
every other byte of memory is as it was. -/
def Obligations.SynchronisingAccess : Prop :=
  ∀ (s : State) (core : Nat) (pas : List Nat) (x : Nat), s.memoryOk → core < s.cores.length → pas.Nodup →
    let old (a : Nat) : Byte := if (s.core core).dirty.contains a then s.plainByte core a else Memory.read s.g a
    let q := s.sync core true false false (pas.map Loc.mem) (fun _ => some x)
    q.2 = ofBytes (pas.map old) ∧
    pas.map (Memory.read q.1.g) = toBytes pas.length x ∧
    pas.map (q.1.plainByte core) = toBytes pas.length x ∧
    (∀ a, a ∉ pas → Memory.read q.1.g a = Memory.read s.g a ∧ q.1.plainByte core a = s.plainByte core a) ∧
    s.keepsCrews q.1

/-- The vector accesses (R203, R224 to R226) on addresses that translate: the active lanes' bytes by the layout, one read for every
lane, gathers and scatters by lane. A gather of a crew that is to be saved may stop after some of its lanes, where no word of its
clause then waits for it, and is then recorded (R56, R99; log 91, DEDUCED). A word without an active lane does nothing; a column
access that starts askew is the misalignment trap.

An access leaves every sector of a square-tiled page that it meets with the orientation of its lines, column lines for the column
layouts of VLD and VST, and flips no other sector (R195, R196); which accesses the LLC serves is the model's choice (log 114). -/
def Obligations.VectorAccesses : Prop :=
  ∀ (o : FieldsM) (s : State) (e : Env) (ls : List Loc),
    let k := intKind o.ty
    let act := activeMask e.v e.p.side.exm o.pred
    let a := addrA e.v o
    let ks := laneBytesOf (laneLen o) (maskLanes act)
    let vas := ks.map (layout o.md a.toNat)
    (s.taken (.vld o) = some e → ks ≠ [] → layoutBad o.md a.toNat = false →
      s.locs e.c.core e.c.region .load false vas = .ok ls →
      let t := s.tlbFillBy e.c.core (o.md != 0) vas
      exec (.vld o) s = .next (e.finish (.vld o) ((t.wakeErrors ls).updCrew e.r.crew (fun c =>
        c.putBytes k o.dst.toNat (ks.zip (t.plainLoad e.c.core ls)))))) ∧
    (s.taken (.vst o) = some e → ks ≠ [] → layoutBad o.md a.toNat = false →
      s.locs e.c.core e.c.region .store false vas = .ok ls →
      exec (.vst o) s = .next (e.finish (.vst o) ((s.tlbFillBy e.c.core (o.md != 0) vas).plainStore e.c.core
        (ls.zip (ks.map (fun j => BitVec.ofNat 8 (e.v.rdNat k o.dst.toNat j 1))))))) ∧
    (s.taken (.vldb o) = some e → act ≠ 0 → s.locs e.c.core e.c.region .load false (span a.toNat (laneLen o)) = .ok ls →
      let t := s.tlbFill e.c.core (span a.toNat (laneLen o))
      exec (.vldb o) s = .next (e.finish (.vldb o) ((t.wakeErrors ls).updCrew e.r.crew (fun c =>
        c.putWhole k o.dst.toNat act (fun _ => ofBytes (t.plainLoad e.c.core ls)))))) ∧
    (let is := maskLanes act
     let vs := is.flatMap (fun i => span (laneAddr e.v o i).toNat (laneLen o))
     s.taken (.vsts o) = some e → is ≠ [] → s.locs e.c.core e.c.region .store false vs = .ok ls →
     exec (.vsts o) s = .next (e.finish (.vsts o) ((s.tlbFill e.c.core vs).plainStore e.c.core (ls.zip
       (is.flatMap (fun i => toBytes (laneLen o) (e.v.laneNat k o.dst.toNat i))))))) ∧
    (let left := act &&& ~~~e.p.gather
     let some_ := gatherStop e o
     s.taken (.vldg o) = some e →
     (e.c.saving = false ∨ some_ = left ∨ e.c.stoppable e.r.sel e.p = false → (gatherLanes e o (maskLanes left) s).2 = none →
       exec (.vldg o) s = .next (e.finish (.vldg o) (gatherLanes e o (maskLanes left) s).1)) ∧
     (e.c.saving = true → some_ ≠ left → e.c.stoppable e.r.sel e.p = true → some_ &&& left = some_ ∧ ((gatherLanes e o (maskLanes some_) s).2 = none →
       exec (.vldg o) s = .next ((gatherLanes e o (maskLanes some_) s).1.record e.r)))) ∧
    (act = 0 →
      (s.taken (.vld o) = some e → exec (.vld o) s = .next (e.finish (.vld o) s)) ∧
      (s.taken (.vst o) = some e → exec (.vst o) s = .next (e.finish (.vst o) s)) ∧
      (s.taken (.vldb o) = some e → exec (.vldb o) s = .next (e.finish (.vldb o) s)) ∧
      (s.taken (.vldg o) = some e → exec (.vldg o) s = .next (e.finish (.vldg o) s)) ∧
      (s.taken (.vsts o) = some e → exec (.vsts o) s = .next (e.finish (.vsts o) s))) ∧
    (s.taken (.vld o) = some e → ks ≠ [] → layoutBad o.md a.toNat = true →
      exec (.vld o) s = .next (s.takeTrap e.r (e.mkTrap 7 0 a .word))) ∧
    (s.taken (.vst o) = some e → ks ≠ [] → layoutBad o.md a.toNat = true →
      exec (.vst o) s = .next (s.takeTrap e.r (e.mkTrap 7 0 a .word))) ∧
    (∀ (u : State) (core : Nat) (col : Bool) (bs : List Nat),
      let t := u.serve core col bs
      t = { u with cols := t.cols } ∧ (u.tlbFillBy core col bs).cols = t.cols ∧
      (∀ va n, va ∈ bs → u.sector? core (va / 1024 * 1024) = some n → (n ∈ t.cols ↔ col = true)) ∧
      (∀ n, (∀ va, va ∈ bs → u.sector? core (va / 1024 * 1024) ≠ some n) → (n ∈ t.cols ↔ n ∈ u.cols)))

/-- FENCE, PHASE, PREF, LOCK and UNLK (R197, R228 to R230): what a fence publishes and refreshes; PREF changes nothing; the status
and the pins of LOCK and UNLK (of an address of firmware space UNMAPPED, which is the model's choice, log 107). That LOCK tests for
a pin before the quota, and that before the set, is the model's choice (log 56). LOCK and UNLK at an address of 2^57 or above are
the fatal page fault, with the address (R220). -/
def Obligations.FencesAndPins : Prop :=
  ∀ (o : FieldsM) (s : State) (e : Env),
    (s.taken (.fence o) = some e → o.md.getLsbD 0 = false → exec (.fence o) s = .next (e.finish (.fence o)
      (let t := if wideScope o.scope && isRelease o.ord then s.publish e.c.core else s
       if wideScope o.scope && isAcquire o.ord then t.refresh e.c.core else t))) ∧
    (s.taken .phase = some e → exec .phase s = .next (e.finish .phase ((s.publish e.c.core).refresh e.c.core))) ∧
    (s.taken (.pref o) = some e → exec (.pref o) s = .next (e.finish (.pref o) s)) ∧
    (∀ b g, s.pinBlock e.c.core (addrA e.v o).toNat = some b → s.region? e.c.region = some g → (addrA e.v o).toNat < 2 ^ 57 →
      let mine := (s.pins.filter (fun p => p.2 == g.id)).length
      (s.taken (.lock o) = some e →
        ((b, g.id) ∈ s.pins → exec (.lock o) s = .next (e.finish (.lock o) (s.ws e.r.crew o.dst.toNat 1))) ∧
        ((b, g.id) ∉ s.pins → g.rcb.lockq ≤ mine →
          exec (.lock o) s = .next (e.finish (.lock o) (s.ws e.r.crew o.dst.toNat 2))) ∧
        ((b, g.id) ∉ s.pins → mine < g.rcb.lockq → exec (.lock o) s = .next (e.finish (.lock o)
          (if (∃ q, q ∈ s.pins ∧ q.1 = b) ∨ (s.pinnedSet b).length < 8 then
             { s with pins := s.pins ++ [(b, g.id)] }.ws e.r.crew o.dst.toNat 0
           else s.ws e.r.crew o.dst.toNat 3)))) ∧
      (s.taken (.unlk o) = some e →
        ((b, g.id) ∈ s.pins → exec (.unlk o) s = .next (e.finish (.unlk o)
          ({ s with pins := s.pins.filter (fun p => p != (b, g.id)) }.ws e.r.crew o.dst.toNat 0))) ∧
        ((b, g.id) ∉ s.pins → exec (.unlk o) s = .next (e.finish (.unlk o)
          ({ s with pins := s.pins.filter (fun p => p != (b, g.id)) }.ws e.r.crew o.dst.toNat 1))))) ∧
    (s.pinBlock e.c.core (addrA e.v o).toNat = none → (addrA e.v o).toNat < 2 ^ 57 →
      (s.taken (.lock o) = some e → exec (.lock o) s = .next (e.finish (.lock o) (s.ws e.r.crew o.dst.toNat 4))) ∧
      (s.taken (.unlk o) = some e → exec (.unlk o) s = .next (e.finish (.unlk o) (s.ws e.r.crew o.dst.toNat 4)))) ∧
    (2 ^ 57 ≤ (addrA e.v o).toNat →
      (s.taken (.lock o) = some e → exec (.lock o) s = .next (s.takeTrap e.r (e.mkTrap 8 3 (addrA e.v o) .word))) ∧
      (s.taken (.unlk o) = some e → exec (.unlk o) s = .next (s.takeTrap e.r (e.mkTrap 8 3 (addrA e.v o) .word))))

/-- BNKCFG, FPUT and FGET (R189 to R194, R231, R232): the status of a change of mode, and the first-in first-out order of a bank.

WAITC (R233): the counter's value and status 0 when it has reached its target, 2 when bit 63 is set, 1 at the timeout, 3 when the
crew is to be saved; status 0 and 2 acquire. Otherwise the path waits; a write of the counter in memory that ends the wait keeps the
value it has read, and WAITC_TIMEOUT ends the wait with it, or reads the counter again. What the end of a wait writes is what its
path then reads, also beside a write that the other peer has in flight (R63). The model's choices: a wait keeps the translation of
its hand-off (log 80), and a bank set to the mode it has keeps its contents (log 82). -/
def Obligations.BanksAndArrivals : Prop :=
  ((∀ (o : FieldsR) (s : State) (e : Env) (g : Region), s.taken (.bnkcfg o) = some e → s.region? e.c.region = some g →
     let cl := clusterOf e.c.core
     let bs := (s.cluster cl).banks
     let k := (e.v.rs o.sa.toNat).toNat
     let b := bs.getD k Bank.reset
     let m := bankMode o.md
     let answer (t : State) (n : Word) : Prop := exec (.bnkcfg o) s = .next (e.finish (.bnkcfg o) (t.ws e.r.crew o.dst.toNat n))
     (15 < k → answer s 3) ∧
     (k ≤ 15 → b.holder ≠ none → b.holder ≠ some g.id → answer s 2) ∧
     (k ≤ 15 → (b.holder = none ∨ b.holder = some g.id) → m ≠ .cache → b.mode = .cache →
       g.rcb.banks ≤ (bs.filter (fun x => x.holder == some g.id)).length → answer s 1) ∧
     (k ≤ 15 → (b.holder = none ∨ b.holder = some g.id) →
       (m = .cache ∨ b.mode ≠ .cache ∨ (bs.filter (fun x => x.holder == some g.id)).length < g.rcb.banks) →
       let b2 : Bank := if b.mode = m then b
         else { mode := m, holder := if m = .cache then none else some g.id, bytes := [], queue := [] }
       answer (s.updCluster cl (fun c => { c with banks := setAt c.banks k b2 })) 0)) ∧
   (∀ (o : FieldsM) (s : State) (e : Env) (k : Nat) (b : Bank), e.fifoBank (addrA e.v o) = .ok (k, b) →
     (s.taken (.fput o) = some e →
       let t := if isRelease o.ord then s.publish e.c.core else s
       (b.mode ≠ .fifo → exec (.fput o) s = .next (e.finish (.fput o) (s.ws e.r.crew (o.dst.toNat + 1) 2))) ∧
       (b.mode = .fifo → 32768 ≤ b.queue.length →
         exec (.fput o) s = .next (e.finish (.fput o) (t.ws e.r.crew (o.dst.toNat + 1) 1))) ∧
       (b.mode = .fifo → b.queue.length < 32768 → exec (.fput o) s = .next (e.finish (.fput o)
         ((t.setFifo e.c.core k (b.queue ++ [e.v.rs o.dst.toNat])).ws e.r.crew (o.dst.toNat + 1) 0)))) ∧
     (s.taken (.fget o) = some e →
       let out (t : State) (x st : Word) := (t.ws e.r.crew o.dst.toNat x).ws e.r.crew (o.dst.toNat + 1) st
       (b.mode ≠ .fifo → exec (.fget o) s = .next (e.finish (.fget o) (out s 0 2))) ∧
       (b.mode = .fifo → b.queue = [] → exec (.fget o) s = .next (e.finish (.fget o) (out s 0 1))) ∧
       (∀ x l, b.mode = .fifo → b.queue = x :: l → exec (.fget o) s = .next (e.finish (.fget o)
         (out (if isAcquire o.ord then (s.setFifo e.c.core k l).refresh e.c.core else s.setFifo e.c.core k l) x 0)))))) ∧
  ((∀ (w now t0 : Nat) (target timeout : Word) (saving : Bool),
     waitcStatus w target timeout now t0 saving =
       (if w.testBit 63 then some 2 else if target.toNat ≤ w % 2 ^ 63 then some 0
        else if timeout ≠ 0 ∧ t0 + timeout.toNat ≤ now then some 1 else if saving then some 3 else none)) ∧
   (∀ (o : FieldsM) (s : State) (e : Env) (l : Loc), s.taken (.waitc o) = some e →
     let a := addrA e.v o
     let d := o.dst.toNat
     let t := s.tlbFill e.c.core (span a.toNat 8)
     (a.toNat % 8 ≠ 0 → exec (.waitc o) s = .next (s.takeTrap e.r (e.mkTrap 7 0 a .word))) ∧
     (∀ ls st, a.toNat % 8 = 0 → s.locs e.c.core e.c.region .load false (span a.toNat 8) = .ok (l :: ls) →
       waitcStatus (t.counterAt e.c.core l) (e.v.rs d) (e.v.rs (d + 1)) t.now t.now e.c.saving = some st →
       exec (.waitc o) s = .next (e.finish (.waitc o)
         ((t.waitcEnd e.r e.c.core d (t.counterAt e.c.core l) st).wakeErrors (l :: ls)))) ∧
     (∀ ls, a.toNat % 8 = 0 → s.locs e.c.core e.c.region .load false (span a.toNat 8) = .ok (l :: ls) →
       waitcStatus (t.counterAt e.c.core l) (e.v.rs d) (e.v.rs (d + 1)) t.now t.now e.c.saving = none →
       exec (.waitc o) s = .next ((t.wakeErrors (l :: ls)).updPath e.r (fun p =>
         { p with wait := .waitc d a.toNat l (e.v.rs d) (e.v.rs (d + 1)) t.slate none })))) ∧
   (∀ (s : State) (r : PathRef) (c : Crew) (p : Path) (d va : Nat) (l : Loc) (target timeout t0 : Word) (got : Option Word) (st : Nat),
     s.crew? r.crew = some c → c.path? r.sel = some p → p.wait = .waitc d va l target timeout t0 got →
     let w : Nat := match got with | some x => x.toNat | none => s.counterAt c.core l
     (waitcStatus w target timeout s.now t0.toNat c.saving = some st →
       exec (.waitcTimeout r) s = .next ((s.waitcEnd r c.core d w st).advance r)) ∧
     (waitcStatus w target timeout s.now t0.toNat c.saving = none → exec (.waitcTimeout r) s = .next s)) ∧
   (∀ (s : State) (r : PathRef) (p : Path) (d va pa : Nat) (target timeout t0 : Word) (ws : List (Nat × Byte)), s.path? r = some p →
     p.wait = .waitc d va (.mem pa) target timeout t0 none → (∃ q, q ∈ ws ∧ q.1 / 8 = pa / 8) →
     let t := s.gWrite ws
     let w := Memory.readNat t.g pa 8
     (w.testBit 63 = true ∨ target.toNat ≤ w % 2 ^ 63) →
     t.path? r = some { p with wait := .waitc d va (.mem pa) target timeout t0 (some (BitVec.ofNat 64 w)) } ∧
       Instr.waitcTimeout r ∈ t.inbox) ∧
   (∀ (s : State) (r : PathRef) (core d w st : Nat), s.waitcEnd r core d w st =
     (let t := (s.setOwn r d (BitVec.ofNat 64 w)).setOwn r (d + 1) (BitVec.ofNat 64 st)
      if st = 0 ∨ st = 2 then t.refresh core else t)) ∧
   (∀ (s : State) (r : PathRef) (c : Crew) (n : Nat) (v : Word), s.crew? r.crew = some c → n < 63 → n < c.s.length →
     ∃ d, (s.setOwn r n v).crew? r.crew = some d ∧ d.rs n = v ∧ ∀ free us, (d.seenBy free r.sel us).rs n = v))

/-! ### Copies and batches -/

/-- CPY, CPY2, CPYT and CPYQ (R211, R212, R234, R235): after the release, a copy joins the crew's open batch; with no room at the
Dolly the word waits with what it has read, and starts without a second release; a length or a count above its bound, and a word of
a descriptor that is to be zero, is the illegal-instruction trap, an address that is askew the misalignment trap.

A copy moves its bytes as the Dolly is paid, in order, each read as it was before the copy began (R216, R328); it completes when all
have moved; a hold that is not resolved in time faults it (R215). Without tokens nothing moves; that a unit which a replayable fault
stopped is paid for again is the model's choice (log 122). -/
def Obligations.CopyWords : Prop :=
  (∀ (o : FieldsR) (s : State) (e : Env),
     let p := s.publish e.c.core
     let x := e.v.rs o.sa.toNat
     let y := e.v.rs o.sb.toNat
     let z := e.v.rs o.sc.toNat
     let new : Prop := ∀ k, e.p.wait ≠ .room k
     let illegal (t : State) := Host.Outcome.next (t.takeTrap e.r (e.mkTrap 1 1 e.w .word))
     let starts (i : Instr) (t : State) (k : CopyKind) : Prop :=
       (t.dollyRoom e.c.core = true → exec i s = .next (e.finish i (t.addCopy e k 0))) ∧
       (t.dollyRoom e.c.core = false → exec i s = .next (t.updPath e.r (fun q => { q with wait := .room k })))
     (∀ i k, i ∈ [Instr.cpy o, .cpy2 o, .cpyt o, .cpyq o] → s.taken i = some e → e.p.wait = .room k → starts i s k) ∧
     (s.taken (.cpy o) = some e → new →
       (2 ^ 32 < z.toNat → exec (.cpy o) s = illegal p) ∧
       (z.toNat ≤ 2 ^ 32 → starts (.cpy o) p (.lin x y z.toNat))) ∧
     (s.taken (.cpyq o) = some e → new →
       (4096 < y.toNat → exec (.cpyq o) s = illegal p) ∧
       (y.toNat ≤ 4096 → x.toNat % 32 ≠ 0 → exec (.cpyq o) s = .next (p.takeTrap e.r (e.mkTrap 7 0 x .word))) ∧
       (y.toNat ≤ 4096 → x.toNat % 32 = 0 → starts (.cpyq o) p (.list x y.toNat none))) ∧
     (∀ i, i ∈ [Instr.cpy2 o, .cpyt o] → s.taken i = some e → new → z.toNat % 32 ≠ 0 →
       exec i s = .next (p.takeTrap e.r (e.mkTrap 7 0 z .word))) ∧
     (∀ b : List Byte, new → z.toNat % 32 = 0 → p.gRead e.c.core e.c.region z.toNat 32 = .ok b →
       let t := p.gTouch e.c.core e.c.region z.toNat 32
       let st (k : Nat) : Word := BitVec.ofNat 64 (word8 b k)
       let rows := word8 b 0x10 / 2 ^ 32
       let cols := word8 b 0x10 % 2 ^ 32
       (s.taken (.cpy2 o) = some e → word8 b 0x18 = 0 → starts (.cpy2 o) t (.rows x y (st 0) (st 8) rows cols)) ∧
       (s.taken (.cpyt o) = some e → word8 b 0x18 = 0 →
         starts (.cpyt o) t (.trans (2 ^ o.md.toNat) x y (st 0) (st 8) rows cols)) ∧
       (s.taken (.cpy2 o) = some e → word8 b 0x18 ≠ 0 → exec (.cpy2 o) s = illegal t) ∧
       (s.taken (.cpyt o) = some e → word8 b 0x18 ≠ 0 → exec (.cpyt o) s = illegal t)) ∧
     (∀ (k : CopyKind) (n : Nat), ∃ c : Copy, (p.addCopy e k n).copies = p.copies ++ [c] ∧ c.kind = k ∧ c.seq = n ∧ c.crew = e.c.id ∧ c.core = e.c.core ∧
       c.serial = e.c.batches.openSerial ∧ c.word = e.w ∧ c.pos = 0 ∧ c.entry = 0 ∧ c.wrote = [] ∧ c.mine = [] ∧ c.since = p.now ∧
       c.state = .active)) ∧
  (∀ (s : State) (id : Nat) (c : Copy), s.copy? id = some c →
     (c.state = .active → c.kind.isDolly = true → (∀ (b : Word) (n : Nat) (x : Option (Word × Word × Nat)), c.kind ≠ .list b n x) → c.pos < c.kind.total →
       (64 ≤ (s.die (dieOf c.core)).bal →
         exec (.dollyUnit id) s = .next (
           let q := State.copyBytes 64 id (s.drawDie (dieOf c.core) 64)
           match q.2 with
           | none => q.1
           | some f => q.1.copyMem id f)) ∧
       ((s.die (dieOf c.core)).bal < 64 → exec (.dollyUnit id) s = .next s)) ∧
     (∀ (b : Word) (n : Nat), c.state = .active → c.kind = .list b n none → c.entry < n →
       exec (.dollyUnit id) s = .next (s.nextEntry c b n)) ∧
     (c.whole = true → exec (.copyComplete id) s = .next ((s.updCopy id (fun d => { d with state := .done })).waitbAll c.crew)) ∧
     (∀ (f : MemFault) (since : Nat), c.state = .held f since → since + 1000000 < s.now →
       let x : MemFault := { f with cls := if f.cls = 9 then 9 else 8, cause := if f.cls = 9 then 1 else 5, replayable := false }
       exec (.copyHoldTimeout id) s = .next (s.copyFail c x)) ∧
     (∀ f : MemFault, c.kind.isDolly = true → s.copyFail c f = s.copyFault c f) ∧
     (∀ (f : MemFault) (since : Nat), c.state = .held f since → s.now ≤ since + 1000000 → exec (.copyHoldTimeout id) s = .next s))

/-- A byte of a copy goes from its source to its destination (R216): from what the source held before the copy, or the entry of its
list, wrote there. The copy keeps the address for the wait that covers it (R214). -/
def Obligations.CopyByteMoves : Prop :=
  ∀ (s : State) (c : Copy) (src dst : Nat), s.memoryOk → s.copy? c.id = some c →
    s.locs c.core c.region .load false [(c.kind.bytes c.pos).2] = .ok [.mem src] →
    s.locs c.core c.region .store false [(c.kind.bytes c.pos).1] = .ok [.mem dst] →
    ∃ t d, s.copyByte c = .ok t ∧ t.copy? c.id = some d ∧ d.pos = c.pos + 1 ∧ dst ∈ d.wrote ∧
      Memory.read t.g dst = (if c.mine.contains src then Memory.read c.old src else Memory.read s.g src) ∧
      (∀ a, a ≠ dst → Memory.read t.g a = Memory.read s.g a) ∧ s.keepsCrews t

/-- SEAL (R212, R236): it closes the open batch and writes its number; with 63 batches outstanding it waits for the oldest, which
leaves the set when it has ended without a fault, and whose trap it takes at its own word when it has faulted.

WAITB and FENCE.CPY (R213, R214, R237): a wait on n covers the sealed batches through n, oldest first, on 127 those through the most
recent, and of a crew that has sealed none, nothing; it ends when their copies have ended, and the bytes they wrote then read as
memory does, but for those that the core has stored to itself; the timed form answers 0, or 1 at its timeout, 3 when its crew is to
be saved (the timeout first where both have come, which is the model's choice, log 109), and 2 with the number of the oldest faulted
batch, which counts as covered; the plain form takes that batch's trap, with CLASS, CAUSE and TRAPV of its record (R349), and no
byte changes. While one copy is in flight a wait goes on, also beside a batch that has faulted. -/
def Obligations.BatchWords : Prop :=
  (∀ (o : FieldsI) (s : State) (e : Env), s.taken (.sealb o) = some e →
     let b := e.c.batches
     let n := b.openSerial
     let sealed (x : Batches) : Batches :=
       { x with openSerial := n + 1, sealedB := x.sealedB ++ [{ serial := n, num := n % 127 }], last := some n }
     let close (t : State) := e.finish (.sealb o) ((t.updCrew e.r.crew (fun c => { c with batches := sealed c.batches })).ws
       e.r.crew o.dst.toNat (BitVec.ofNat 64 (n % 127)))
     (b.sealedB.length < 63 → exec (.sealb o) s = .next (close s)) ∧
     (∀ old l, b.sealedB = old :: l → 63 ≤ b.sealedB.length → s.batchEnded e.c.id old.serial = false →
       exec (.sealb o) s = .next s) ∧
     (∀ old l, b.sealedB = old :: l → 63 ≤ b.sealedB.length → s.batchEnded e.c.id old.serial = true →
       e.c.batchFault old.serial = none → exec (.sealb o) s = .next (close (s.cover e.c.id [old.serial]))) ∧
     (∀ old l q, b.sealedB = old :: l → 63 ≤ b.sealedB.length → s.batchEnded e.c.id old.serial = true →
       e.c.batchFault old.serial = some q → exec (.sealb o) s = .next (s.takeBatch e.r old.serial q .word))) ∧
  ((∀ (o : FieldsI) (s : State) (e : Env), s.taken (.waitb o) = some e →
     exec (.waitb o) s = .next ((s.updPath e.r (fun p =>
       { p with wait := .waitb (e.c.covers (o.imm.toNat % 128)) none })).waitbJudge e.r)) ∧
   (∀ (o : FieldsI) (s : State) (e : Env), s.taken (.waitbT o) = some e →
     exec (.waitbT o) s = .next ((s.updPath e.r (fun p =>
       { p with wait := .waitb (e.c.covers (o.imm.toNat % 128)) (some (o.dst.toNat, e.v.rs o.sa.toNat, s.slate)) })).waitbJudge e.r)) ∧
   (∀ (o : FieldsM) (s : State) (e : Env), s.taken (.fence o) = some e → o.md.getLsbD 0 = true →
     exec (.fence o) s = .next ((s.updPath e.r (fun p => { p with wait := .waitb (e.c.covers 127) none })).waitbJudge e.r)) ∧
   (∀ (s : State) (r : PathRef), exec (.waitbTimeout r) s = .next (s.waitbJudge r)) ∧
   (∀ (c : Crew) (l n : Nat), c.batches.last = some l → n < 127 →
     let d := (l % 127 + 127 - n) % 127
     c.covers n = (if 62 < d then [] else (c.batches.sealedB.filter (fun b => decide (b.serial + d ≤ l))).map (fun b => b.serial))) ∧
   (∀ (c : Crew) (l : Nat), c.batches.last = some l →
     c.covers 127 = (c.batches.sealedB.filter (fun b => decide (b.serial ≤ l))).map (fun b => b.serial)) ∧
   (∀ (c : Crew) (n : Nat), c.batches.last = none → c.covers n = []) ∧
   (∀ (s : State) (r : PathRef) (c : Crew) (p : Path) (bs : List Nat), s.crew? r.crew = some c → c.path? r.sel = some p →
     (∀ b, b ∈ bs → c.batchFault b = none) →
     ((∀ b, b ∈ bs → s.batchEnded c.id b = true) → p.wait = .waitb bs none → p.inside = true →
       s.waitbJudge r = ((s.coverOrdered c.core c.id bs).afterCover c.core p.here).advance r) ∧
     (∀ dst timeout t0, (∀ b, b ∈ bs → s.batchEnded c.id b = true) → p.wait = .waitb bs (some (dst, timeout, t0)) →
       s.waitbJudge r = ((s.coverOrdered c.core c.id bs).setOwn r dst 0).advance r)) ∧
   (∀ (s : State) (r : PathRef) (c : Crew) (p : Path) (bs : List Nat), s.crew? r.crew = some c → c.path? r.sel = some p →
     (∀ b, b ∈ bs → s.batchEnded c.id b = false →
       (p.wait = .waitb bs none → s.waitbJudge r = s) ∧
       (∀ dst timeout t0, p.wait = .waitb bs (some (dst, timeout, t0)) → timeout ≠ 0 → t0.toNat + timeout.toNat ≤ s.now →
         s.waitbJudge r = (s.setOwn r dst 1).advance r) ∧
       (∀ dst timeout t0, p.wait = .waitb bs (some (dst, timeout, t0)) → (timeout = 0 ∨ s.now < t0.toNat + timeout.toNat) →
         (c.saving = true → s.waitbJudge r = (s.setOwn r dst 3).advance r) ∧
         (c.saving = false → s.waitbJudge r = s)))) ∧
   (∀ (s : State) (r : PathRef) (c : Crew) (p : Path) (bs : List Nat) (old : Nat) (q : FaultRec), s.crew? r.crew = some c →
     c.path? r.sel = some p → (∀ b, b ∈ bs → s.batchEnded c.id b = true) → c.oldestFault bs = some (old, q) →
     (∀ dst timeout t0, p.wait = .waitb bs (some (dst, timeout, t0)) →
       s.waitbJudge r = ((((s.coverOrdered c.core c.id (bs.filter (fun b => (c.batchFault b).isNone))).cover c.id [old]).setOwn r dst
         (BitVec.ofNat 64 (old % 127 * 2 ^ 8 + 2))).advance r)) ∧
     (p.wait = .waitb bs none → s.waitbJudge r = s.takeBatch r old q (if p.inside then batchResume p.here else .clause))) ∧
   (∀ (s : State) (r : PathRef) (p : Path) (b : Nat) (q : FaultRec) (x : Resume), s.path? r = some p →
     s.takeBatch r b q x = s.takeTrap r
       { slate := q.slate, cls := q.trapc.toNat % 2 ^ 8, cause := q.trapc.toNat / 2 ^ 8 % 2 ^ 8, val := q.trapv, code := 0,
         word := if p.inside then p.idx else 0, inst := q.word, resume := x, batch := some b, bar := none }) ∧
   (∀ (s : State) (r : PathRef) (c : Crew) (g : Region) (b : Nat) (q : FaultRec) (x : Resume), s.crew? r.crew = some c →
     s.region? c.region = some g → g.rcb.fpol = 2 → c.handler ≠ some r.sel →
     let t := s.takeBatch r b q x
     t.g = s.g ∧ t.cores = s.cores ∧ ∀ k a, t.plainByte k a = s.plainByte k a) ∧
   (∀ (s : State) (core crew : Nat) (bs : List Nat), s.memoryOk → core < s.cores.length →
     let t := s.coverOrdered core crew bs
     t.g = s.g ∧
     (∀ c a, c ∈ s.copies → c.crew = crew → c.serial ∈ bs → a ∈ c.wrote → a < 2 ^ 52 → a ∉ (s.core core).dirty →
       t.plainByte core a = Memory.read s.g a) ∧
     (∀ a, a ∈ (s.core core).dirty → t.plainByte core a = s.plainByte core a) ∧
     (∀ k a, k ≠ core → t.plainByte k a = s.plainByte k a) ∧
     (∀ c, c ∈ t.copies ↔ c ∈ s.copies ∧ ¬(c.crew = crew ∧ c.serial ∈ bs))))

/-! ### Barriers and steps -/

/-- BARI (R154): it binds an unbound barrier; on the region's own it sets count and timeout, now or for the next generation; on
another region's it is the barrier fault of cause 3. Nothing else changes. A timeout of 0 never comes. -/
def Obligations.BarrierSetting : Prop :=
  ∀ (o : FieldsI) (s : State) (e : Env), s.taken (.bari o) = some e →
    let n := o.imm.toNat % 2 ^ 7
    let count := o.imm.toNat / 2 ^ 8 % 2 ^ 6
    let timeout := e.v.rs o.sa.toNat
    (s.barrier? e.c.core n = none → exec (.bari o) s = .next (e.finish (.bari o) (s.setBarrier e.c.core n
      { region := e.c.region, expect := count, timeout := timeout, next := none, gen := 0, count := 0, arrived := [],
        first := none, expired := false, exited := 0, pending := none }))) ∧
    (∀ b, s.barrier? e.c.core n = some b → b.region = e.c.region → b.count = 0 →
      exec (.bari o) s = .next (e.finish (.bari o) (s.setBarrier e.c.core n
        { b with expect := count, timeout := timeout, next := none }))) ∧
    (∀ b, s.barrier? e.c.core n = some b → b.region = e.c.region → b.count ≠ 0 →
      exec (.bari o) s = .next (e.finish (.bari o) (s.setBarrier e.c.core n { b with next := some (count, timeout) }))) ∧
    (∀ b, s.barrier? e.c.core n = some b → b.region ≠ e.c.region → ∃ t : Trap, t.cls = 11 ∧ t.cause = 3 ∧
      exec (.bari o) s = .next (s.takeTrap e.r t)) ∧
    (∀ (b : Barrier) (count : Nat) (timeout : Word), b.next = some (count, timeout) →
      b.nextGen.expect = count ∧ b.nextGen.timeout = timeout) ∧
    (∀ (core : Nat) (b : Barrier), s.barrier? core n = some b → b.timeout = 0 → exec (.barrierTimeout core n) s = .next s)

/-- BARA, BARS and BARW (R49, R51, R52, R155, R385): an arrival is counted once a generation; the one that meets the expected count
completes it; BARS and BARW wait, BARW only while the generation of its crew's arrival has not completed. An arrival at an unbound
barrier is the fault of cause 4, at a foreign one of cause 3, a second arrival of cause 5; a fault that the barrier holds is taken
by the next crew that arrives or waits. An arrival that cannot be met any more is the fault of cause 1, a wait on a barrier that has
expired the fault of cause 2, for the crews that wait. BARRIER_TIMEOUT is that fault at the expiry.

Every arrival also judges the other barriers of its core, and one that completes a generation the new one too; a generation that
replaces one abandoned in the same event is judged at the next one, which is the model's reading (log 104, DEDUCED). That the
arriving crew takes the fault of one of its region's barriers for which no crew waits is the model's reading (log 33, DEDUCED), and
that an expired barrier faults before its count is judged is its choice (log 72). -/
def Obligations.BarrierArrivals : Prop :=
  (∀ (o : FieldsI) (s : State) (e : Env) (i : Instr),
    (i = .bara o ∨ i = .bars o) → s.taken i = some e →
    let n := o.imm.toNat
    let core := e.c.core
    (s.barrier? core n = none → ∃ t : Trap, t.cls = 11 ∧ t.cause = 4 ∧ exec i s = .next (s.takeTrap e.r t)) ∧
    (∀ b, s.barrier? core n = some b → b.region ≠ e.c.region →
      ∃ t : Trap, t.cls = 11 ∧ t.cause = 3 ∧ exec i s = .next (s.takeTrap e.r t)) ∧
    (∀ b q, s.barrier? core n = some b → b.region = e.c.region → b.pending = some q →
      ∃ t : Trap, t.cls = 11 ∧ t.cause = q.cause ∧ t.slate = q.slate ∧
        exec i s = .next ((s.setBarrier core n { b with pending := none }).takeTrap e.r t)) ∧
    (∀ b, s.barrier? core n = some b → b.region = e.c.region → b.pending = none → look n e.c.arrivals = some b.gen →
      ∃ t : Trap, t.cls = 11 ∧ t.cause = 5 ∧ exec i s = .next (s.takeTrap e.r t)) ∧
    (∀ b, s.barrier? core n = some b → b.region = e.c.region → b.pending = none → look n e.c.arrivals ≠ some b.gen →
      let q := s.countArrival core n b e.c.id
      let w := q.1.updPath e.r (fun p => { p with wait := .barrier n b.gen })
      let goesOn (done : List Nat) (u : State) : Prop :=
        (u.blamed core done e.c.region = none → exec i s = .next (e.finish i (u.judgeOthers core done))) ∧
        (∀ m x, u.blamed core done e.c.region = some (m, x) →
          ∃ t : Trap, t.cls = 11 ∧ t.cause = 1 ∧ t.val = BitVec.ofNat 64 m ∧
            exec i s = .next (((u.setBarrier core m x.nextGen).judgeOthers core (m :: done)).takeTrap e.r t))
      (b.count + 1 = b.expect → goesOn [] (q.1.completeGen core n q.2)) ∧
      (b.count + 1 ≠ b.expect → i = .bara o →
        (q.1.unreachable core n q.2 = false → goesOn [n] q.1) ∧
        (q.1.unreachable core n q.2 = true → q.1.waitersOf core n ≠ [] → goesOn [n] (q.1.barrierFault core n 1 q.2)) ∧
        (q.1.unreachable core n q.2 = true → q.1.waitersOf core n = [] →
          ∃ t : Trap, t.cls = 11 ∧ t.cause = 1 ∧ t.val = BitVec.ofNat 64 n ∧
            exec i s = .next (((q.1.setBarrier core n q.2.nextGen).judgeOthers core [n]).takeTrap e.r t))) ∧
      (b.count + 1 ≠ b.expect → i = .bars o →
        (b.expired = true → exec i s = .next ((w.barrierFault core n 2 q.2).judgeOthers core [n])) ∧
        (b.expired = false → w.unreachable core n q.2 = true →
          exec i s = .next ((w.barrierFault core n 1 q.2).judgeOthers core [n])) ∧
        (b.expired = false → w.unreachable core n q.2 = false →
          (q.1.blamed core [n] e.c.region = none → exec i s = .next (w.judgeOthers core [n])) ∧
          (q.1.blamed core [n] e.c.region ≠ none → goesOn [n] q.1))))) ∧
  (∀ (o : FieldsI) (s : State) (e : Env), s.taken (.barw o) = some e →
    let n := o.imm.toNat
    let core := e.c.core
    let w (b : Barrier) := s.updPath e.r (fun p => { p with wait := .barrier n b.gen })
    (s.barrier? core n = none → ∃ t : Trap, t.cls = 11 ∧ t.cause = 4 ∧ exec (.barw o) s = .next (s.takeTrap e.r t)) ∧
    (∀ b, s.barrier? core n = some b → b.region ≠ e.c.region →
      ∃ t : Trap, t.cls = 11 ∧ t.cause = 3 ∧ exec (.barw o) s = .next (s.takeTrap e.r t)) ∧
    (∀ b q, s.barrier? core n = some b → b.region = e.c.region → b.pending = some q →
      ∃ t : Trap, t.cls = 11 ∧ t.cause = q.cause ∧ t.slate = q.slate ∧
        exec (.barw o) s = .next ((s.setBarrier core n { b with pending := none }).takeTrap e.r t)) ∧
    (∀ b, s.barrier? core n = some b → b.region = e.c.region → b.pending = none →
      (∀ g, look n e.c.arrivals = some g → g < b.gen → exec (.barw o) s = .next (e.finish (.barw o) s)) ∧
      ((∀ g, look n e.c.arrivals = some g → b.gen ≤ g) →
        (b.expired = false → exec (.barw o) s = .next (w b)) ∧
        (b.expired = true → exec (.barw o) s = .next ((w b).barrierFault core n 2 b))))) ∧
  (∀ (s : State) (core n : Nat) (b : Barrier) (t0 : Nat), s.barrier? core n = some b → b.first = some t0 → b.timeout ≠ 0 →
    b.pending = none → t0 + b.timeout.toNat ≤ s.now →
    (s.waitersOf core n ≠ [] → exec (.barrierTimeout core n) s = .next (s.barrierFault core n 2 b)) ∧
    (s.waitersOf core n = [] → exec (.barrierTimeout core n) s = .next (s.setBarrier core n { b with expired := true })))

/-- A generation completes exactly when its arrivals meet its count (R49, R155): the arrival that meets the expected count takes the
barrier to its next generation, which is abandoned in its turn where no crew can meet its count (R51), any other that raises no
fault leaves it in the generation it was in, with one arrival more.

When a generation completes, the next one starts with no arrival, under the count and timeout set for it; every path that waited on
it goes on: an entry wait of its clause is met (R104), a word that waited has ended; a crew without such a path is as it was. -/
def Obligations.GenerationsComplete : Prop :=
  (∀ (o : FieldsI) (s : State) (e : Env) (i : Instr) (b : Barrier),
    (i = .bara o ∨ i = .bars o) → s.taken i = some e →
    let n := o.imm.toNat
    let core := e.c.core
    let q := s.countArrival core n b e.c.id
    s.barrier? core n = some b → b.region = e.c.region → b.pending = none → look n e.c.arrivals ≠ some b.gen →
    (b.count + 1 = b.expect →
      let v := q.1.completeGen core n q.2
      (∃ u d, exec i s = .next u ∧ u.barrier? core n = some d ∧ b.gen < d.gen ∧ d.count = 0) ∧
      ((∀ m x, v.barrier? core m = some x → v.unreachable core m x = false) →
        ∃ u d, exec i s = .next u ∧ u.barrier? core n = some d ∧ d.gen = b.gen + 1 ∧ d.count = 0)) ∧
    (b.count + 1 ≠ b.expect → b.expired = false →
      (q.1.updPath e.r (fun p => { p with wait := .barrier n b.gen })).unreachable core n q.2 = false →
      q.1.unreachable core n q.2 = false →
      ∃ u d, exec i s = .next u ∧ u.barrier? core n = some d ∧ d.gen = b.gen ∧ d.count = b.count + 1 ∧
        d.expect = b.expect)) ∧
  (∀ (s : State) (core n : Nat) (b : Barrier), core < s.cores.length →
    let t := s.completeGen core n b
    (∃ d, t.barrier? core n = some d ∧ d.gen = b.gen + 1 ∧ d.count = 0 ∧ d.arrived = [] ∧ d.next = none ∧
      d.region = b.region ∧ (∀ x, b.next = some x → d.expect = x.1 ∧ d.timeout = x.2) ∧
      (b.next = none → d.expect = b.expect ∧ d.timeout = b.timeout)) ∧ t.g = s.g ∧
    (∀ k c, s.crew? k = some c → ∃ d, t.crew? k = some d ∧ c.agrees d) ∧
    (∀ k c, s.crew? k = some c → (∀ x, x ∈ s.crews → x.id = k → x = c) →
      (c.core ≠ core ∨ ∀ q, q ∈ c.allPaths → q.2.wait.onBarrier n = false) → t.crew? k = some c) ∧
    (∀ (r : PathRef) (c : Crew) (p : Path), s.crew? r.crew = some c → c.core = core → c.path? r.sel = some p →
      (∀ g, p.wait = .entry n g → t.path? r = some { p with wait := .none }) ∧
      (∀ g, p.wait = .barrier n g → t.wentOn r p)))

/-- STEP (R53, R54, R156): the crew's arrival is counted in its step group's generation; while a live participant has not arrived it
waits; with the last one every core that has a participant publishes and then refreshes, so that its plain loads read what memory
holds, and every path that waited in that generation goes on. -/
def Obligations.Steps : Prop :=
  ∀ (s : State) (e : Env), s.taken .stepw = some e →
    let key := s.stepKey e.c
    let t := (s.updCrew e.r.crew (fun c => { c with stepped := some (s.stepGen key) })).updPath e.r (fun p =>
      { p with wait := .step (s.stepGen key) })
    ((t.participants key = [] ∨ ∃ c, c ∈ t.participants key ∧ c.stepped ≠ some (s.stepGen key)) →
      exec .stepw s = .next t) ∧
    (t.participants key ≠ [] → (∀ c, c ∈ t.participants key → c.stepped = some (s.stepGen key)) →
      ∃ u, exec .stepw s = .next u ∧ u.stepGen key = s.stepGen key + 1 ∧
        (let cores := ((t.participants key).map (fun c => c.core)).dedup
         u.g = (cores.foldl (fun v k => v.publish k) t).g ∧
         (s.memoryOk → ∀ k, k ∈ cores → k < s.cores.length → ∀ a, u.plainByte k a = Memory.read u.g a)) ∧
        (∀ (r : PathRef) (c : Crew) (p : Path), t.crew? r.crew = some c → c ∈ t.participants key → c.path? r.sel = some p →
          p.wait = .step (s.stepGen key) → u.wentOn r p))

/-! ### Creating work -/

/-- SPAWN (R28, R149): status 0 or 1 when the request is queued or spilled, counting in CNT and in the crew's children; 2 when it is
refused; a misaligned target is the misalignment trap. SPAWNR publishes, and instantiates a child region with its seed request,
status 2 when there is no room, 3 when the region is refused; a template that cannot be read is its page fault, and a replayable one
holds the path (R364).

ENQL, QFLUSH, WAITSP and the Casting unit (R29, R32 to R37, R150 to R152): each active lane's record goes to the FIFO, to the ring,
or is not accepted, as the mask says; a flush or 2,048 quiet cycles cast a partial group; spilled requests return in ring order, and
a spilled lane task returns to its own cluster's FIFO, LTRH rising by 1 also where older records of other clusters stay in the ring,
which is the model's choice (log 93); WAITSP with no child is an acquire, and with one the crew is to be saved. -/
def Obligations.CreatedWork : Prop :=
  (∀ (o : FieldsR) (s : State) (e : Env) (g : Region), s.region? e.c.region = some g →
     let t := e.v.rs o.sa.toNat
     let die := dieOf e.c.core
     (s.taken (.spawn o) = some e →
       (t.toNat % 8 ≠ 0 → exec (.spawn o) s = .next (s.takeTrap e.r (e.mkTrap 7 0 t .word))) ∧
       (t.toNat % 8 = 0 →
         let q : Request := { die := die, region := g.id, entry := t, arg := scalarSrc e.v o 2 o.sb, seed := false,
                              spawner := some e.c.id, since := s.stamp }
         let st := s.spawnStatus die g
         let u : State := { s.placeRequest g.id st q with stamp := s.stamp + 1 }
         (st ≤ 1 → exec (.spawn o) s = .next (e.finish (.spawn o)
           ((u.countChild g.id e.c.id).ws e.r.crew o.dst.toNat (BitVec.ofNat 64 st)))) ∧
         (st = 2 → exec (.spawn o) s = .next (e.finish (.spawn o) (u.ws e.r.crew o.dst.toNat 2))))) ∧
     (s.taken (.spawnr o) = some e → t.toNat % 64 ≠ 0 →
       exec (.spawnr o) s = .next (s.takeTrap e.r (e.mkTrap 7 0 t .word))) ∧
     (s.taken (.spawnr o) = some e → t.toNat % 64 = 0 →
       let p := s.publish e.c.core
       let w := p.gTouch e.c.core g.id t.toNat 256
       let x := scalarSrc e.v o 2 o.sb
       (p.spawnStatus die g = 2 → exec (.spawnr o) s = .next (e.finish (.spawnr o) (p.ws e.r.crew o.dst.toNat 2))) ∧
       (∀ f, p.spawnStatus die g ≤ 1 → p.gRead e.c.core g.id t.toNat 256 = .error f →
         (f.replayable = false → exec (.spawnr o) s = .next (p.takeTrap e.r (e.mkTrap f.cls f.cause f.va .word))) ∧
         (f.replayable = true → exec (.spawnr o) s = .next (p.updPath e.r (fun q => { q with wait := .fault f p.now })))) ∧
       (∀ b, p.spawnStatus die g ≤ 1 → p.gRead e.c.core g.id t.toNat 256 = .ok b →
         let r0 := resolveRcb (parseRcb b) (some g.rcb)
         let r : Rcb := if x ≠ 0 then { r0 with karg := x } else r0
         let child := newRegion p.nextId r (some g.id) (some e.c.id) die
         (∀ err, p.refusal r = some err → exec (.spawnr o) s = .next (e.finish (.spawnr o)
           ((w.refuse child err).ws e.r.crew o.dst.toNat 3))) ∧
         (p.refusal r = none →
           let q : Request := { die := die, region := child.id, entry := r.entry, arg := 0, seed := true, spawner := none,
                                since := p.stamp }
           let u : State := { w with regions := p.regions ++ [child], nextId := p.nextId + 1, stamp := p.stamp + 1 }
           exec (.spawnr o) s = .next (e.finish (.spawnr o)
             (((u.placeRequest g.id (p.spawnStatus die g) q).countChild g.id e.c.id).ws e.r.crew o.dst.toNat
               (BitVec.ofNat 64 (p.spawnStatus die g))))))) ∧
     (∀ (h : Region), s.spawnStatus die h =
       (if ¬ h.cnt < 2 ^ 32 - 1 then 2
        else if (s.die die).spawnQ.length < 4096 ∧ h.spawnRing = [] then 0
        else if h.rcb.ssrn ≠ 0 ∧ h.spawnRing.length < 2 ^ h.rcb.ssrn then 1 else 2))) ∧
  ((∀ (o : FieldsR) (s : State) (e : Env), s.taken (.enql o) = some e →
     let res := (maskLanes (e.active o)).foldl (fun (acc : State × List Nat) i =>
       let q := acc.1.placeTask (enqlTask e o i)
       (q.1, if q.2 then i :: acc.2 else acc.2)) (s, [])
     exec (.enql o) s = .next (e.finish (.enql o) (res.1.updCrew e.r.crew (fun c =>
       c.wkOn o.dst.toNat e.p.side.exm (maskOf (fun i => res.2.contains i)))))) ∧
   (∀ (s : State) (e : Env), s.taken .qflush = some e →
     let k := clusterOf e.c.core
     exec .qflush s = .next (e.finish .qflush
       (((((s.cluster k).fifo.filter (fun t => t.region == e.c.region)).map (fun t => t.entry)).dedup).foldl
         (fun u x => u.castGroup k e.c.region x) s))) ∧
   (∀ (s : State) (k g : Nat) (x : BitVec 32),
     (∀ t, t ∈ (s.cluster k).group g x → t.cycle + 2048 ≤ s.cycles) →
     exec (.partialCastTimeout k g x) s = .next (s.castGroup k g x)) ∧
   (∀ (s : State) (g : Region) (k : Nat) (t : LaneTask), s.region? g.id = some g →
     g.laneRing.find? (fun x => x.cluster == k) = some t → (s.cluster k).fifoCount < 4096 →
     exec (.laneTaskRefill g.id k) s = .next ((s.updRegion g.id (fun x =>
       { x with laneRing := dropFirst k x.laneRing, ltrh := (x.ltrh + 1) % 2 ^ 32 })).fifoEnter k t)) ∧
   (∀ (s : State) (g : Region) (q : Request) (l : List Request), s.region? g.id = some g → g.spawnRing = q :: l →
     (s.die q.die).spawnQ.length < 4096 →
     exec (.spawnRingDrain g.id) s = .next ((s.updDie q.die (fun d => { d with spawnQ := d.spawnQ ++ [q] })).updRegion g.id
       (fun x => { x with spawnRing := l, ssrh := (x.ssrh + 1) % 2 ^ 32 }))) ∧
   (∀ (s : State) (e : Env), s.taken .waitsp = some e →
     (e.c.children = 0 → exec .waitsp s = .next (e.finish .waitsp (s.refresh e.c.core))) ∧
     (e.c.children ≠ 0 → exec .waitsp s = .next ((e.leave .waitsp s e.p.nextClause).updCrew e.r.crew
       (fun c => { c with state := .saving .waitsp })))))

/-! ### The matrix array -/

/-- MMA, MMAT and MMAW (R241 to R254, R261 to R264). The checks follow the order of R248: the whole of the format block (one that is
illegal, a codebook and BF16 scales that are not aligned, then their translation), the limits, and POISON; nothing has an effect
before they have passed. Where R248 names no place the order is the model's (log 67, DEDUCED): within the block as listed, the owner
of a weight slot after the limits, the descriptors of remote tiles after POISON. With every slice of its operands in place the
product ends at once; with a remote operand the path waits for slices, or stops when a slice it lacks comes from a package without a
route. A slice that arrives enters its staging tile, and the last one ends the product; one that has come already does nothing; a
failed one stops it. What an engine does for a product that has been re-issued is done under the views under which its registers
were resolved (R160).

The end, whatever patterns the array gives in its two runs: where every row and column of the first run passes the checks of R265,
the accumulator gets its elements, else those of the second; POISON is set, and the array-error event posted, exactly when both runs
fail (R266). Where no soft error strikes a run its elements are those that R248 computes. A run that stops at a slice boundary keeps
the inputs and the products of its elements; a run that is resumed goes on from them, and the checks at its end are those of the
whole instruction, as is the rerun. Which soft errors strike is open, the slices of a run that stops are checked at its end only,
and an error within the tolerance stays, as R268's example has it (log 68, DEDUCED). That a codebook address not aligned to 32 bytes
is the misalignment trap with that address is the model's choice (log 132), and so is what ends and stops write where a staging tile
and the accumulator overlap (log 133). -/
def Obligations.MatrixProducts : Prop :=
  (∀ (o : FieldsX) (s : State) (e : Env) (i : Instr) (pr : Product), productOf i = some (o, pr) → s.taken i = some e →
    let fb := e.v.rs o.fb.toNat
    let d := o.dst.toNat
    let trap (cls cause : Nat) (val : Word) := Host.Outcome.next (s.takeTrap e.r (e.mkTrap cls cause val .word))
    (fb.toNat % 32 ≠ 0 → exec i s = trap 7 0 fb) ∧
    (∀ f, fb.toNat % 32 = 0 → s.locs e.c.core e.c.region .load false (span fb.toNat 32) = .error f → f.replayable = false →
      exec i s = trap f.cls f.cause f.va) ∧
    (∀ bl, fb.toNat % 32 = 0 → s.locs e.c.core e.c.region .load false (span fb.toNat 32) = .ok bl →
      let t0 := s.tlbFill e.c.core (span fb.toNat 32)
      let b := t0.plainLoad e.c.core bl
      let w := word8 b 0x18
      let oddA : Bool := bits w 17 16 == 2 && word8 b 0 % 2 == 1
      let oddB : Bool := bits w 9 8 == 2 && word8 b 8 % 2 == 1
      let va := scaleSpan o (word8 b 0) (bits w 19 18) (bits w 17 16)
      let vb := scaleSpan o (word8 b 8) (bits w 11 10) (bits w 9 8)
      let vc := if o.ty = 4 ∧ pr ≠ .weights then span (word8 b 0x10) 64 else []
      (blockBad o pr b = true → exec i s = trap 1 1 e.w) ∧
      (blockBad o pr b = false →
        (word8 b 0x10 % 32 ≠ 0 → exec i s = trap 7 0 (BitVec.ofNat 64 (word8 b 0x10))) ∧
        (word8 b 0x10 % 32 = 0 → oddA = true → exec i s = trap 7 0 (BitVec.ofNat 64 (word8 b 0))) ∧
        (word8 b 0x10 % 32 = 0 → oddA = false → oddB = true → exec i s = trap 7 0 (BitVec.ofNat 64 (word8 b 8)))) ∧
      (blockBad o pr b = false → word8 b 0x10 % 32 = 0 → oddA = false → oddB = false →
        (∀ f, t0.locs e.c.core e.c.region .load false (va ++ vb ++ vc) = .error f → f.replayable = false →
          exec i s = trap f.cls f.cause f.va) ∧
        (∀ ls, t0.locs e.c.core e.c.region .load false (va ++ vb ++ vc) = .ok ls →
          (limitsOf o pr (e.v.rs o.ps.toNat) = none → exec i s = trap 1 1 e.w) ∧
          (∀ lim, limitsOf o pr (e.v.rs o.ps.toNat) = some lim →
            (pr = .weights → e.ownSlot o = none → exec i s = trap 1 1 e.w) ∧
            ((pr = .weights → e.ownSlot o ≠ none) →
              ((e.v.side d).poison = true → exec i s = trap 10 0 (BitVec.ofNat 64 d)) ∧
              ((e.v.side d).poison = false →
                ((o.ra = 1 ∧ descBad (e.v.rs o.ta.toNat) = true) ∨ (o.rb = 1 ∧ descBad (e.v.rs o.tb.toNat) = true) →
                  exec i s = trap 1 1 e.w) ∧
                ((o.ra = 1 → descBad (e.v.rs o.ta.toNat) = false) → (o.rb = 1 → descBad (e.v.rs o.tb.toNat) = false) →
                  let image := if pr = .weights then Memory.readBytes ((e.ownSlot o).elim [] WSlot.bytes) 0 8192 else []
                  let x := t0.plainLoad e.c.core ls
                  let t := (t0.tlbFill e.c.core (va ++ vb ++ vc)).wakeErrors (bl ++ ls)
                  let blk := mblockOf o e.v.sys.fmtc b (x.take va.length) ((x.drop va.length).take vb.length)
                    (x.drop (va.length + vb.length)) image
                  let run := e.sliceRun o pr t blk lim
                  let u : State := { t with nextId := t.nextId + 1 }
                  (run.kstep o = 4 → exec i s = .next (e.finish i (u.productEnd e.v run o pr e.w))) ∧
                  (run.kstep o ≠ 4 → (∀ k, k ∈ e.v.awaited o run → u.reachable k = true) →
                    exec i s = .next ((u.askSlices e.r e.v o run).updPath e.r (fun p => { p with wait := .slices run }))) ∧
                  (run.kstep o ≠ 4 → (∃ k, k ∈ e.v.awaited o run ∧ u.reachable k = false) →
                    exec i s = .next ((u.sliceStop e.v run o pr e.w).takeTrap e.r
                      (e.mkTrap 12 3 (run.word o) .word))))))))))) ∧
  (∀ (c : Crew) (o : FieldsX) (x : SliceRun) (k : BitVec 10), k ∈ c.awaited o x ↔
    (o.ra = 1 ∧ x.mapA ≠ 15 ∧ descPkg (c.rs o.ta.toNat) = k) ∨ (o.rb = 1 ∧ x.mapB ≠ 15 ∧ descPkg (c.rs o.tb.toNat) = k)) ∧
  (∀ (s : State) (up : Nat → Nat → Nat → Nat) (c : Crew) (x : SliceRun) (o : FieldsX) (pr : Product) (w : Word),
    let d := o.dst.toNat
    let cs := x.arrived o pr 4
    let ds := cs.map (x.again o)
    let first := observed o.ty (up 0) cs
    let second := observed o.ty (up 1) ds
    let ends (stands : List ArrayCell) (bad : Bool) : State := s.updCrew c.id (fun z =>
      (z.wrBytes .acc d 0 (x.bytesOf o stands)).wside d { poison := bad || (z.side d).poison, resume := 0, rword := 0 })
    (checksOk o.ty first = true → s.productWith up c x o pr w = ends first false) ∧
    (checksOk o.ty first = false → checksOk o.ty second = true → s.productWith up c x o pr w = ends second false) ∧
    (checksOk o.ty first = false → checksOk o.ty second = false →
      s.productWith up c x o pr w = (ends second true).postWords [s.slate.toNat, c.core, d, 0, w.toNat] 3) ∧
    ((∀ i v, up 0 i v = v) → x.bytesOf o first = x.bytesOf o cs) ∧
    ((∀ i v, up 1 i v = v) → x.bytesOf o second = x.bytesOf o ds) ∧
    (x.base = 0 → ds = cs) ∧
    s.productEnd c x o pr w = s.productWith (softUps s.free) c x o pr w ∧
    (let stops (acc : List Byte) (kept : List ArrayCell) : State := s.updCrew c.id (fun z =>
       (z.wrBytes .acc d 0 acc).wside d { z.side d with resume := x.word o, rword := w, held := kept })
     let part := observed o.ty (up 0) (x.arrived o pr (x.kstep o))
     (x.base < x.kstep o → s.stopWith (up 0) c x o pr w = stops (x.bytesOf o part) part) ∧
     (x.kstep o ≤ x.base → s.stopWith (up 0) c x o pr w = stops x.acc0 x.held) ∧
     s.sliceStop c x o pr w = s.stopWith (softUps s.free 0) c x o pr w) ∧
    (∀ (hi i : Nat) (h y : ArrayCell), x.base ≠ 0 → x.held[i]? = some h → h.out = patternAt x.acc0.toArray (accBytes o.ty) i →
      maskedAt pr x.ps (i / shapeM o.ty) (i % shapeM o.ty) = false → (x.arrived o pr hi)[i]? = some y →
      y.c = h.c ∧ (∃ l, y.ps = h.ps ++ l) ∧ (h.computed = true → y.computed = true))) ∧
  (∀ (e : Env) (s : State) (o : FieldsX) (pr : Product) (blk : MBlock) (lim : Nat × Nat × Nat),
    let sd := e.v.side o.dst.toNat
    let run := e.sliceRun o pr s blk lim
    (sd.resume.toNat.testBit 63 = true → sd.rword = e.w → run.held = sd.held ∧ run.base = sd.resume.toNat / 2 ^ 8 % 8) ∧
    (sd.resume.toNat.testBit 63 = false ∨ sd.rword ≠ e.w → run.held = [] ∧ run.base = 0 ∧ run.mapA = 0 ∧ run.mapB = 0)) ∧
  (∀ (free k i v : Nat), softUps free k i v = if Config.softError (2 * free + k) i then Config.upset (2 * free + k) i v else v) ∧
  (∀ (s : State) (r : PathRef) (c : Crew) (p : Path) (x : SliceRun) (o : FieldsX) (pr : Product) (i : Instr) (opB : Bool) (q : Nat)
      (data : List Byte) (fail : Option (BitVec 7)),
    s.crew? r.crew = some c → s.path? r = some p → p.wait = .slices x → p.here = some i → productOf i = some (o, pr) →
    let places := slicePlaces (tileRow o.ty) q
    let y : SliceRun := { x with mapA := if opB then x.mapA else x.mapA ||| (1#4 <<< q)
                                 mapB := if opB then x.mapB ||| (1#4 <<< q) else x.mapB
                                 opA := if opB then x.opA else putSlice places data x.opA
                                 opB := if opB then putSlice places data x.opB else x.opB }
    let put (z : Crew) : Crew := z.putBytes .tile (if opB then o.tb.toNat else o.ta.toNat) (places.zip data)
    let away : State := p.resolved.elim s (fun v => s.updCrew r.crew (fun z => { z with views := v }))
    let home (t : State) : State := p.resolved.elim t (fun _ => t.updCrew r.crew (fun z => { z with views := c.views }))
    let t := away.updCrew r.crew put
    let come : Bool := if opB then x.mapB.getLsbD q else x.mapA.getLsbD q
    (4 ≤ q ∨ come = true → exec (.sliceArrival r x.id opB q data fail) s = .next s) ∧
    (q < 4 → come = false →
      (y.kstep o = 4 → exec (.sliceArrival r x.id opB q data none) s =
        .next ((home (t.productEnd (put { c with views := p.resolved.getD c.views }) y o pr (p.words.getD p.idx 0))).advance r)) ∧
      (y.kstep o ≠ 4 →
        exec (.sliceArrival r x.id opB q data none) s = .next ((home t).updPath r (fun z => { z with wait := .slices y }))) ∧
      (∀ k : BitVec 7, exec (.sliceArrival r x.id opB q data (some k)) s =
        .next (((home (away.sliceStop c x o pr (p.words.getD p.idx 0))).updPath r (fun z => { z with wait := .none })).takeTrap r
          { slate := s.slate, cls := 12, cause := k.toNat, val := x.word o, code := 0, word := p.idx, inst := p.words.getD p.idx 0,
            resume := .word, batch := none, bar := none }))))

/-- The INT8 product (R93, R248 to R250): within the limits an element of C is, modulo 2^32, the signed accumulator, or 0 in
overwrite mode, plus the sum of the products of its signed bytes; a masked element is the constant; an element outside the limits
keeps its value. -/
def Obligations.MatrixIntegers : Prop :=
  ∀ (run : SliceRun) (o : FieldsX) (pr : Product) (ta tb : List Byte) (m n : Nat),
    o.ty = 3 → pr ≠ .weights → run.acc0.length = 4096 → m < 32 → n < 32 →
    let at_ (l : List Byte) (k : Nat) : Int := sextInt 8 (l.getD k 0).toNat
    let old := patternAt run.acc0.toArray 4 (32 * m + n)
    let new := patternAt (run.bytesOf o (run.cells o pr ta tb 0 4)).toArray 4 (32 * m + n)
    (run.lim.1 ≤ m ∨ run.lim.2.1 ≤ n → new = old) ∧
    (m < run.lim.1 → n < run.lim.2.1 → maskedAt pr run.ps m n = true → new = run.ps.toNat % 2 ^ 32) ∧
    (m < run.lim.1 → n < run.lim.2.1 → maskedAt pr run.ps m n = false →
      new = (((if o.mode = 1 then 0 else sextInt 32 old) +
        (((List.range 64).filter (fun k => decide (k < run.lim.2.2))).map (fun k =>
          at_ ta (64 * m + k) * at_ tb (64 * n + k))).sum) % (2 ^ 32 : Int)).toNat)

/-- Loads and stores of weight slots, tiles, accumulators and distributions (R252, R255, R256, R264, R279) at addresses that
translate. A load changes no byte of memory and none that a core reads; a store changes no byte but those it stores to. A word
without an active lane does nothing; the half form of ALD and AST trap on a poisoned accumulator. TLD and TST of a column layout
whose address is not among the first 32 bytes of a 1 KiB sector or not aligned to the layout's unit, and DLD and DST of an active
lane at an address not aligned to 4, are the misalignment trap (R255, R279). -/
def Obligations.MatrixMoves : Prop :=
  ∀ (o : FieldsM) (s : State) (e : Env) (pas : List Nat), s.memoryOk → e.c.core < s.cores.length →
    let a := addrA e.v o
    let d := o.dst.toNat
    let ls := pas.map Loc.mem
    let kept (t : State) : Prop := t.g = s.g ∧ ∀ k x, t.plainByte k x = s.plainByte k x
    let others (t : State) : Prop := ∀ k, k ≠ e.r.crew → t.crew? k = s.crew? k
    let stored (t : State) : Prop := t.g = s.g ∧ (∀ x, x ∉ pas → t.plainByte e.c.core x = s.plainByte e.c.core x) ∧
      ∀ k x, k ≠ e.c.core → t.plainByte k x = s.plainByte k x
    let data := pas.map (s.plainByte e.c.core)
    let slot := (look d (s.core e.c.core).slots).getD { owner := none, bytes := [] }
    let ks := laneBytesOf 32 (maskLanes (activeMask e.v e.p.side.exm o.pred))
    let dvas := ks.map (fun k => (a.toNat + k) % 2 ^ 64)
    (let vas := span a.toNat (1024 * (fld o.md 2 0 + 1))
     s.taken (.wbld o) = some e → s.locs e.c.core e.c.region .load false vas = .ok ls →
      ∃ t, exec (.wbld o) s = .next (e.finish (.wbld o) t) ∧ kept (e.finish (.wbld o) t) ∧ s.keepsCrews t ∧
        look d (t.core e.c.core).slots = some { owner := some e.c.region
                                                bytes := Memory.writeBytes
                                                  (if slot.owner = some e.c.region then slot.bytes else []) 0 data }) ∧
    (∀ vas, s.taken (.tld o) = some e → tileAddrs e o = some vas → s.locs e.c.core e.c.region .load false vas = .ok ls →
      ∃ t, exec (.tld o) s = .next (e.finish (.tld o) t) ∧ kept t ∧ others t ∧ t.crew? e.r.crew = some (e.c.wrBytes .tile d 0 data)) ∧
    (∀ vas, s.taken (.tst o) = some e → tileAddrs e o = some vas → s.locs e.c.core e.c.region .store false vas = .ok ls →
      let t := (s.tlbFillBy e.c.core (tileCols o) vas).plainStore e.c.core (ls.zip (e.v.rdBytes .tile d 0 2048))
      exec (.tst o) s = .next (e.finish (.tst o) t) ∧ stored t ∧ s.keepsCrews t) ∧
    (s.taken (.ald o) = some e → s.locs e.c.core e.c.region .load false (accAddrs e o) = .ok ls →
      (o.md = 0 ∨ (e.v.side d).poison = false →
        ∃ t, exec (.ald o) s = .next (e.finish (.ald o) t) ∧ kept t ∧ others t ∧
          t.crew? e.r.crew = some ((e.c.wrBytes .acc d 0 data).wside d { poison := false, resume := 0, rword := 0 })) ∧
      (o.md ≠ 0 → (e.v.side d).poison = true →
        exec (.ald o) s = .next (s.takeTrap e.r (e.mkTrap 10 0 (BitVec.ofNat 64 d) .word)))) ∧
    (s.taken (.ast o) = some e → s.locs e.c.core e.c.region .store false (accAddrs e o) = .ok ls →
      ((e.v.side d).poison = false →
        let t := (s.tlbFill e.c.core (accAddrs e o)).plainStore e.c.core
          (ls.zip (e.v.rdBytes .acc d 0 (if o.md = 0 then 4096 else 2048)))
        exec (.ast o) s = .next (e.finish (.ast o) (t.updCrew e.r.crew (fun c => c.clearResume d))) ∧ stored t ∧ s.keepsCrews t) ∧
      ((e.v.side d).poison = true →
        exec (.ast o) s = .next (s.takeTrap e.r (e.mkTrap 10 0 (BitVec.ofNat 64 d) .word)))) ∧
    (s.taken (.dld o) = some e → ks ≠ [] → a.toNat % 4 = 0 → s.locs e.c.core e.c.region .load false dvas = .ok ls →
      ∃ t, exec (.dld o) s = .next (e.finish (.dld o) t) ∧ kept t ∧ others t ∧ t.crew? e.r.crew = some
        (let rs := ((maskLanes (activeMask e.v e.p.side.exm o.pred)).zip (pieces 32 (ks.length / 32) data)).map (fun q =>
          (q.1, laneEnd (checked [pointsOf (ofBytes q.2)] (some (pointsOf (ofBytes q.2), 0)))))
         (rs.foldl (fun x q => x.wrNat .dist d (q.1 * 32) 32 (elementNat q.2.1)) e.c).raise (orFlags (rs.map (fun q => q.2.2))))) ∧
    (s.taken (.dst o) = some e → ks ≠ [] → a.toNat % 4 = 0 → s.locs e.c.core e.c.region .store false dvas = .ok ls →
      let t := (s.tlbFill e.c.core dvas).plainStore e.c.core (ls.zip (ks.map (fun k => BitVec.ofNat 8 (e.v.rdNat .dist d k 1))))
      exec (.dst o) s = .next (e.finish (.dst o) t) ∧ stored t ∧ s.keepsCrews t) ∧
    (ks = [] →
      (s.taken (.dld o) = some e → exec (.dld o) s = .next (e.finish (.dld o) s)) ∧
      (s.taken (.dst o) = some e → exec (.dst o) s = .next (e.finish (.dst o) s))) ∧
    (tileAddrs e o = none ↔ 2 ≤ o.md.toNat ∧ (32 ≤ a.toNat % 1024 ∨ a.toNat % 2 ^ (o.md.toNat - 2) ≠ 0)) ∧
    (let traps (i : Instr) : Prop := exec i s = .next (s.takeTrap e.r (e.mkTrap 7 0 a .word))
     (tileAddrs e o = none → (s.taken (.tld o) = some e → traps (.tld o)) ∧ (s.taken (.tst o) = some e → traps (.tst o))) ∧
     (ks ≠ [] → a.toNat % 4 ≠ 0 → (s.taken (.dld o) = some e → traps (.dld o)) ∧ (s.taken (.dst o) = some e → traps (.dst o))))

/-- ACLR, ASCL, ACVT, TSIG and TSCHK (R244, R257 to R260, R264): what they leave of their crew; but for ACLR, TSIG of a tile and
TSCHK a poisoned accumulator is the poison trap. TSCHK answers 0 when the signature matches and 1, with an event, when it does not.
-/
def Obligations.AccumulatorWords : Prop :=
  (∀ o : FieldsX, ∀ s, CrewEffect (.aclr o) s (fun e =>
    (e.c.wrBytes .acc o.dst.toNat 0 (List.replicate 4096 0)).wside o.dst.toNat { poison := false, resume := 0, rword := 0 })) ∧
  (∀ o : FieldsX, ∀ s, CrewEffect (.tsigTile o) s (fun e => { e.c with sys := { e.c.sys with
    tsig := BitVec.ofNat 64 (foldWords e.c.sys.tsig.toNat
      (Memory.words e.c.urs (e.c.offset .tile o.ta.toNat) (4 * Config.creww))) } })) ∧
  (∀ (o : FieldsX) (s : State) (e : Env),
    let d := o.dst.toNat
    let a := fld o.md 4 0
    let w := accBytes o.ty
    let f := accFmt o.ty
    let m := shapeM o.ty
    let j := scaleExp ((e.v.rs o.ps.toNat).toNat % 2 ^ 32)
    let poison (n : Nat) := Host.Outcome.next (s.takeTrap e.r (e.mkTrap 10 0 (BitVec.ofNat 64 n) .word))
    (s.taken (.tsigAcc o) = some e →
      ((e.v.side d).poison = true → exec (.tsigAcc o) s = poison d) ∧
      ((e.v.side d).poison = false → exec (.tsigAcc o) s = .next (e.finish (.tsigAcc o) (s.updCrew e.r.crew (fun c =>
        (c.foldReg .acc d (8 * Config.creww)).clearResume d))))) ∧
    (s.taken (.ascl o) = some e →
      ((e.v.side d).poison = true → exec (.ascl o) s = poison d) ∧
      ((e.v.side d).poison = false →
        let old := (e.v.rdBytes .acc d 0 (if o.ty = 0 then 2048 else 4096)).toArray
        let one (b : Nat) : Nat :=
          let x := (f.decode b).scale j
          let r := (f.round 0 x).1
          if x.isNan then f.nanBits
          else if e.v.sys.fmtc.getLsbD 2 && x.isFinite && (f.decode r).isInf then f.maxBits x.isNeg else r
        exec (.ascl o) s = .next (e.finish (.ascl o) (s.updCrew e.r.crew (fun c => (c.wrBytes .acc d 0
          ((List.range (old.size / w)).flatMap (fun i => toBytes w (one (patternAt old w i))))).clearResume d))))) ∧
    (s.taken (.acvt o) = some e →
      ((e.v.side a).poison = true → exec (.acvt o) s = poison a) ∧
      ((e.v.side a).poison = false →
        let acc := (e.v.rdBytes .acc a 0 4096).toArray
        let new := (List.range (m * m)).foldl (fun t i => acvtBytes (fld o.md 7 5) (fld o.md 11 10) (i / m) (i % m)
          (acvtTarget e.v.codebook (fld o.md 7 5) (fld o.md 9 8) (e.v.sys.fmtc.getLsbD 2)
            ((acvtSource o.ty (patternAt acc w i)).scale (-j))) t) (e.v.rdBytes .tile d 0 2048).toArray
        exec (.acvt o) s = .next (e.finish (.acvt o) (s.updCrew e.r.crew (fun c =>
          (c.wrBytes .tile d 0 new.toList).clearResume a)))))) ∧
  (∀ (o : FieldsM) (s : State) (e : Env) (ls : List Loc), s.taken (.tschk o) = some e →
    let a := addrA e.v o
    let t := s.tlbFill e.c.core (span a.toNat 8)
    let x := ofBytes (t.plainLoad e.c.core ls)
    let u := t.wakeErrors ls
    (a.toNat % 8 ≠ 0 → exec (.tschk o) s = .next (s.takeTrap e.r (e.mkTrap 7 0 a .word))) ∧
    (a.toNat % 8 = 0 → s.locs e.c.core e.c.region .load false (span a.toNat 8) = .ok ls →
      (x = e.v.sys.tsig.toNat → exec (.tschk o) s = .next (e.finish (.tschk o) (u.ws e.r.crew o.dst.toNat 0))) ∧
      (x ≠ e.v.sys.tsig.toNat → exec (.tschk o) s = .next (e.finish (.tschk o)
        ((u.postEvent [u.slate.toNat, e.c.core, a.toNat, x, e.v.sys.tsig.toNat, 0, 0, 4]).ws e.r.crew o.dst.toNat 1)))))

/-! ### The fabric -/

/-- RPUT, RGET and RRED (R305 to R308, R310): after the release and with a legal descriptor the transfer joins the crew's open
batch, an ordered put or reduction under the next sequence number of its pair of packages; an illegal descriptor is the
illegal-instruction trap, one that is not 64-byte aligned the misalignment trap. Without room the word waits with the descriptor it
has read, and starts without a second release and without reading it again. -/
def Obligations.TransfersIssue : Prop :=
  ∀ (o : FieldsM) (s : State) (e : Env),
    let p := s.publish e.c.core
    let a := addrA e.v o
    let new : Prop := ∀ k, e.p.wait ≠ .room k
    let askew := Host.Outcome.next (p.takeTrap e.r (e.mkTrap 7 0 a .word))
    let numbered (t : State) (k : CopyKind) : State :=
      let n (d : FabDesc) := seqOf d.pkg t.fab.seqOut
      let taking (d : FabDesc) : State :=
        let u := t.addCopy e k (n d)
        { u with fab := { u.fab with seqOut := setSeq d.pkg (n d + 1) u.fab.seqOut } }
      match k with
      | .put .ord d => taking d
      | .red .ord _ d => taking d
      | .get true d => t.addCopy e k (n d)
      | _ => t.addCopy e k 0
    let starts (i : Instr) (t : State) (k : CopyKind) : Prop :=
      (t.fabricRoom = true → exec i s = .next (e.finish i (numbered t k))) ∧
      (t.fabricRoom = false → exec i s = .next (t.updPath e.r (fun q => { q with wait := .room k })))
    (∀ i k, i ∈ [Instr.rput o, .rget o, .rred o] → s.taken i = some e → e.p.wait = .room k → k.xfer ≠ none → starts i s k) ∧
    (∀ i, i ∈ [Instr.rput o, .rget o, .rred o] → s.taken i = some e → new → a.toNat % 64 ≠ 0 → exec i s = askew) ∧
    (∀ i f, i ∈ [Instr.rput o, .rget o, .rred o] → s.taken i = some e → new → a.toNat % 64 = 0 →
      p.gRead e.c.core e.c.region a.toNat 64 = .error f → f.replayable = false →
      exec i s = .next (p.takeTrap e.r (e.mkTrap f.cls f.cause f.va .word))) ∧
    (∀ b, new → a.toNat % 64 = 0 → p.gRead e.c.core e.c.region a.toNat 64 = .ok b →
      let t := p.gTouch e.c.core e.c.region a.toNat 64
      let d := fabDesc b
      let cls := xferClass o.md
      let et := redType o.md
      let word (i : Instr) (bad : Bool) (k : CopyKind) : Prop :=
        (bad = true → exec i s = .next (t.takeTrap e.r (e.mkTrap 1 1 e.w .word))) ∧ (bad = false → starts i t k)
      (s.taken (.rput o) = some e → word (.rput o) (descIllegal b cls true none) (.put cls d)) ∧
      (s.taken (.rget o) = some e → word (.rget o) (descIllegal b cls false none) (.get (fld o.md 0 0 == 1) d)) ∧
      (s.taken (.rred o) = some e → word (.rred o) (descIllegal b cls false (some et)) (.red cls et d)))

/-- RATOM, RMSK and VRDCM (R315, R316, R318). A RATOM to a package with a route is sent, after its release, and its path waits for
the old value, with the request that a resend sends again; an exchange with a wake register of its target is a wake store, a release
that is sent at once and answers 0. Without a route RATOM is the remote-operand fault of cause 3, and that it is raised before the
release is the model's choice (log 76). RMSK reads a counter or mask with acquire and counts its ones, arms it for a group of
packages, or disarms it; arming reads the group, before it asks for the counter's alignment, and does not access the counter. VRDCM
scales the sum of the valid contributions of each element. Operands that are not aligned are the misalignment trap. -/
def Obligations.RemoteWords : Prop :=
  (∀ (o : FieldsM) (s : State) (e : Env), s.taken (.ratom o) = some e →
    let a := addrA e.v o
    let k : BitVec 10 := (e.v.rs (o.base.toNat + 1)).setWidth 10
    let x := e.v.rs o.dst.toNat
    let p := if isRelease o.ord then s.publish e.c.core else s
    let q : AtomReq := { id := p.nextId, src := p.pkgId, addr := a, ty := o.ty, op := o.md.setWidth 4, x := x, since := p.now }
    let t : State := { p with nextId := p.nextId + 1 }
    (a.toNat % atomBytes o.ty ≠ 0 → exec (.ratom o) s = .next (s.takeTrap e.r (e.mkTrap 7 0 a .word))) ∧
    (a.toNat % atomBytes o.ty = 0 → s.reachable k = false →
      exec (.ratom o) s = .next (s.takeTrap e.r (e.mkTrap 12 3 a .word))) ∧
    (a.toNat % atomBytes o.ty = 0 → s.reachable k = true → wakeQueueOf q k = none →
      exec (.ratom o) s = .next ((t.addJob (dieOf e.c.core) (some k) 1 (.atomRequest q)).updPath e.r (fun y =>
        { y with wait := .ratom q o.dst.toNat (isAcquire o.ord) k }))) ∧
    (∀ n, a.toNat % atomBytes o.ty = 0 → s.reachable k = true → wakeQueueOf q k = some n →
      let u := ((s.publish e.c.core).addJob (dieOf e.c.core) (some k) 1 (.wake n x)).ws e.r.crew o.dst.toNat 0
      exec (.ratom o) s = .next (e.finish (.ratom o) (if isAcquire o.ord then u.refresh e.c.core else u)))) ∧
  (∀ (o : FieldsM) (s : State) (e : Env) (ls : List Loc), s.taken (.rmskRd o) = some e →
    let a := addrA e.v o
    (a.toNat % 8 ≠ 0 → exec (.rmskRd o) s = .next (s.takeTrap e.r (e.mkTrap 7 0 a .word))) ∧
    (a.toNat % 8 = 0 → s.locs e.c.core e.c.region .load false (span a.toNat 8) = .ok ls →
      let q := (s.tlbFill e.c.core (span a.toNat 8)).sync e.c.core true false true ls (fun _ => none)
      exec (.rmskRd o) s = .next (e.finish (.rmskRd o) (((q.1.wakeErrors ls).ws e.r.crew o.dst.toNat
        (BitVec.ofNat 64 q.2)).ws e.r.crew (o.dst.toNat + 1) (BitVec.ofNat 64 (popcount 64 q.2)))))) ∧
  (∀ (o : FieldsM) (s : State) (e : Env) (gl : List Loc), s.taken (.rmskArm o) = some e →
    let a := addrA e.v o
    let g := e.v.rs o.dst.toNat
    let t0 := s.tlbFill e.c.core (span g.toNat 128)
    let t := t0.wakeErrors gl
    let askew (x : Word) := Host.Outcome.next (s.takeTrap e.r (e.mkTrap 7 0 x .word))
    let ends (u : State) (st : Word) := Host.Outcome.next (e.finish (.rmskArm o) (u.ws e.r.crew (o.dst.toNat + 1) st))
    (g.toNat % 64 ≠ 0 → exec (.rmskArm o) s = askew g) ∧
    (g.toNat % 64 = 0 → a.toNat % 8 ≠ 0 → s.locs e.c.core e.c.region .load false (span g.toNat 128) = .ok gl →
      exec (.rmskArm o) s = askew a) ∧
    (∀ f, g.toNat % 64 = 0 → s.locs e.c.core e.c.region .load false (span g.toNat 128) = .error f → f.replayable = false →
      exec (.rmskArm o) s = .next (s.takeTrap e.r (e.mkTrap f.cls f.cause f.va .word))) ∧
    (g.toNat % 64 = 0 → a.toNat % 8 = 0 → s.locs e.c.core e.c.region .load false (span g.toNat 128) = .ok gl →
      ((∃ x, x ∈ t.fab.armed ∧ x.addr = a) → exec (.rmskArm o) s = ends t 2) ∧
      ((∀ x, x ∈ t.fab.armed → x.addr ≠ a) → 256 ≤ t.fab.armed.length → exec (.rmskArm o) s = ends t 1) ∧
      ((∀ x, x ∈ t.fab.armed → x.addr ≠ a) → t.fab.armed.length < 256 →
        exec (.rmskArm o) s = ends { t with fab := { t.fab with armed := t.fab.armed ++ [{
          addr := a, core := e.c.core, group := t0.plainLoad e.c.core gl, region := e.c.region }] } } 0))) ∧
  (∀ (o : FieldsM) (s : State) (e : Env), s.taken (.rmskDisarm o) = some e →
    let a := addrA e.v o
    exec (.rmskDisarm o) s = .next (e.finish (.rmskDisarm o)
      ({ s with fab := { s.fab with armed := s.fab.armed.filter (fun x => x.addr != a) } }.ws e.r.crew (o.dst.toNat + 1)
        (if s.fab.armed.any (fun x => x.addr == a) then 0 else 1)))) ∧
  (∀ (o : FieldsR) (s : State) (e : Env) (dl : List Loc), s.taken (.vrdcm o) = some e →
    let a := e.v.rs o.sa.toNat
    let off := (e.v.rs o.sb.toNat).toNat
    let acc : Bool := o.md == 1
    let act := activeMask e.v e.p.side.exm o.pred
    let is := maskLanes act
    let t := s.tlbFill e.c.core (span a.toNat 32)
    let b := t.plainLoad e.c.core dl
    let place (i : Nat) : Nat := off + 4 * i
    (a.toNat % 32 ≠ 0 → exec (.vrdcm o) s = .next (s.takeTrap e.r (e.mkTrap 7 0 a .word))) ∧
    (a.toNat % 32 = 0 → s.locs e.c.core e.c.region .load false (span a.toNat 32) = .ok dl →
      (redDesc b = none → exec (.vrdcm o) s = .next (s.takeTrap e.r (e.mkTrap 1 1 e.w .word))) ∧
      (redDesc b ≠ none → off % 4 ≠ 0 →
        exec (.vrdcm o) s = .next (s.takeTrap e.r (e.mkTrap 7 0 (e.v.rs o.sb.toNat) .word))) ∧
      (∀ d ml ls, redDesc b = some d → off % 4 = 0 →
        let mvas := is.flatMap (fun i => vrdcmMaskAddrs acc d (place i))
        t.locs e.c.core e.c.region .load false mvas = .ok ml →
        let masks := is.zip (pieces (if acc then 8 else d.n) is.length (t.plainLoad e.c.core ml))
        let valid := masks.map (fun q => (q.1, (List.range d.n).filter (fun c => vrdcmValid acc (place q.1) c q.2)))
        let dvas := valid.flatMap (fun q => vrdcmDataAddrs acc d (place q.1) q.2)
        t.locs e.c.core e.c.region .load false dvas = .ok ls →
        let byte (v : Nat) : Byte := ((dvas.zip ls).find? (fun q => q.1 == v)).elim 0 (fun q => t.readLoc e.c.core false q.2)
        let vs := valid.flatMap (fun q => (vrdcmLane acc (if o.ty = 0 then fp32 else bf16) (if o.ty = 0 then 4 else 2)
          o.rm.toNat d.n q.2.length ((vrdcmDataAddrs acc d (place q.1) q.2).map byte)).zipIdx.map (fun r => (q.1, r.2, r.1)))
        exec (.vrdcm o) s = .next (e.finish (.vrdcm o)
          (((t.tlbFill e.c.core (mvas ++ dvas)).wakeErrors (dl ++ ml ++ ls)).updCrew e.r.crew (fun c =>
            (c.putVals { kind := .vec, bytes := if o.ty = 0 then 4 else 2, count := 4 / (if o.ty = 0 then 4 else 2) }
              o.dst.toNat vs).wkOn o.sc.toNat act (maskOf (fun i => valid.any (fun q => q.1 == i && !q.2.isEmpty))))))) ∧
      (∀ d ml f, redDesc b = some d → off % 4 = 0 → acc = true →
        t.locs e.c.core e.c.region .load false (is.flatMap (fun i => vrdcmMaskAddrs acc d (place i))) = .ok ml →
        t.locs e.c.core e.c.region .load false (is.flatMap (fun i => span (d.base.toNat + place i) 4)) = .error f → f.replayable = false →
        exec (.vrdcm o) s = .next (s.takeTrap e.r (e.mkTrap f.cls f.cause f.va .word)))))

/-- The fabric engine and what arrives (R296, R297, R300, R301, R304, R315, R319, R320, R328). A flit is discarded when its link is
not up or its tag fails, and when this package holds no table in its bank; one for this package is taken; any other is forwarded:
with a stamp, or past its VIA, as it is (log 99, DEDUCED), else as this router's entry says. A control packet on a bridge port is
taken whatever the VALID bit of its bank says, which is the model's choice (log 135). Its accesses of memory are by row lines (R196;
log 114). The engine takes a flit's step only when the bucket of the die that pays holds 96 tokens, which it draws, but for a read
of LEN 0, which sends no flit; which die pays is the model's choice (log 69), and so are the class in which it sends
acknowledgements, notices and cancellations (log 117) and that it pays for the slices that a re-issued product still fetches (log
123). A read answers with the bytes of this package's memory, an atomic performs once and answers with the old value; one whose
timeout has passed is performed no more, for which it carries the tick of its issue (log 112). A lost peer is acted on once, and a
notice about a package already lost, or about this one, does nothing (log 41, DEDUCED): armed counters whose group contains it get
bit 63, what is owed to it fails, and the sequence numbers of both directions go on (log 70, DEDUCED). -/
def Obligations.FabricEngine : Prop :=
  (∀ (s : State) (port : Nat) (tag : Bool) (p : Packet), port ≠ 64 →
    let t := s.updPort port (fun q => { q with lastIn := s.now })
    let u : Packet := if p.via = some s.pkgId then { p with via := none, passed := true, vcSet := 1 } else p
    let x := s.routeEntry u.bank u.dest
    let via : BitVec 10 := x.setWidth 10
    let on (q : Packet) := Host.Outcome.next { t with fab := { t.fab with held := t.fab.held ++ [q] } }
    ((s.mode ≠ .full ∨ (s.port port).up = false ∨ (s.port port).keys = none ∨ tag = false) →
      exec (.flitReceive port tag p) s = .next s) ∧
    (s.mode = .full → (s.port port).up = true → (s.port port).keys ≠ none → tag = true →
      (62 ≤ port → p.control = false → exec (.flitReceive port tag p) s = .next t) ∧
      (62 ≤ port → p.control = true → exec (.flitReceive port tag p) s = .next (t.takeMsg true p.msg)) ∧
      (port < 62 → p.msg = .idle → exec (.flitReceive port tag p) s = .next t) ∧
      (port < 62 → p.msg ≠ .idle →
        (s.bankValid u.bank = false → exec (.flitReceive port tag p) s = .next t) ∧
        (s.bankValid u.bank = true →
          (u.via = none → u.dest = s.pkgId → exec (.flitReceive port tag p) s = .next (t.takeMsg false u.msg)) ∧
          (u.via = none → u.dest ≠ s.pkgId → u.passed = false → 2 ≤ routeMode x → exec (.flitReceive port tag p) s = .next t) ∧
          (u.via ≠ none ∨ (u.dest ≠ s.pkgId ∧ u.passed = true) → exec (.flitReceive port tag p) s = on u) ∧
          (u.via = none → u.dest ≠ s.pkgId → u.passed = false → routeMode x = 0 →
            exec (.flitReceive port tag p) s = on { u with vcSet := 1 }) ∧
          (u.via = none → u.dest ≠ s.pkgId → u.passed = false → routeMode x = 1 → via = s.pkgId →
            exec (.flitReceive port tag p) s = on { u with passed := true, vcSet := 1 }) ∧
          (u.via = none → u.dest ≠ s.pkgId → u.passed = false → routeMode x = 1 → via ≠ s.pkgId →
            exec (.flitReceive port tag p) s = on { u with via := some via, vcSet := 0 }))))) ∧
  (∀ (s : State) (p : Packet) (tag : Bool), exec (.flitReceive 64 tag p) s = .next (s.takeMsg false p.msg)) ∧
  (∀ (s : State) (q : AtomReq), s.takeMsg false (.atomRequest q) = s.addJob 0 none 1 (.atomRequest q)) ∧
  (∀ (s : State) (id : Nat) (c : Copy), s.copy? id = some c →
    (s.mayFlit c = true → exec (.fabricEngineFlit id) s = .next ((s.drawDie (dieOf c.core) c.flitCost).transferFlit c)) ∧
    ((s.die (dieOf c.core)).bal < c.flitCost → exec (.fabricEngineFlit id) s = .next s) ∧
    (∀ cls d, c.kind = .get cls d → c.flitCost = if d.len = 0 then 0 else 96) ∧
    ((∀ cls d, c.kind ≠ .get cls d) → c.flitCost = 96)) ∧
  (∀ (s : State) (id : Nat) (j : FabJob), s.copy? id = none → s.fab.jobs.find? (fun x => x.id == id) = some j →
    (j.left = 0 → exec (.fabricEngineFlit id) s = .next (s.runJob j)) ∧
    (j.left ≠ 0 → (s.die j.die).bal < 96 → exec (.fabricEngineFlit id) s = .next s) ∧
    (j.left = 1 → 96 ≤ (s.die j.die).bal →
      exec (.fabricEngineFlit id) s = .next (((s.drawDie j.die 96).payJob id).runJob { j with left := 0 })) ∧
    (1 < j.left → 96 ≤ (s.die j.die).bal → exec (.fabricEngineFlit id) s = .next ((s.drawDie j.die 96).payJob id))) ∧
  (∀ (s : State) (id : Nat) (src : BitVec 10) (a : Word) (n : Nat) (pas : List Nat),
    s.locs noCore 0 .load false (span a.toNat n) = .ok (pas.map Loc.mem) →
    (src ≠ s.pkgId → exec (.remoteReadRequest id src a n) s =
      .next ((s.servedRows pas).addJob 0 (some src) 1 (.getData id a.toNat (pas.map (Memory.read s.g))))) ∧
    (∀ c, src = s.pkgId → s.copy? id = some c → exec (.remoteReadRequest id src a n) s =
      .next ((s.servedRows pas).addJob 0 (some src) 1 (.getData id a.toNat (pas.map (fun x =>
        if x ∈ c.mine then Memory.read c.old x else Memory.read s.g x)))))) ∧
  (∀ (s : State) (id : Nat) (src : BitVec 10) (a : Word) (n : Nat) (f : MemFault),
    s.locs noCore 0 .load false (span a.toNat n) = .error f →
    (f.replayable = false → exec (.remoteReadRequest id src a n) s = .next (s.addJob 0 (some src) 1 (.failed id 1 f.va))) ∧
    (f.replayable = true → exec (.remoteReadRequest id src a n) s = .next (s.addJob 0 none 0 (.getRequest id src a n)))) ∧
  (∀ (s : State) (q : AtomReq) (pas : List Nat), s.memoryOk → pas.Nodup → pas.length = atomBytes q.ty →
    s.incoming? (inKey q.src q.id) = none → s.now ≤ q.since + 1000000 →
    s.locs noCore 0 .atomic false (span q.addr.toNat (atomBytes q.ty)) = .ok (pas.map Loc.mem) →
    let old := ofBytes (pas.map (Memory.read s.g))
    let op (x : Nat) : Nat := atomNew q.ty q.op.toNat x (q.x.toNat % 2 ^ (8 * atomBytes q.ty))
    (s.atomCore q = none → ∃ t : State, exec (.remoteAtomic q) s = .next t ∧
      pas.map (Memory.read t.g) = toBytes (atomBytes q.ty) (op old) ∧
      (∀ x, x ∉ pas → Memory.read t.g x = Memory.read s.g x) ∧
      (∃ j : FabJob, t.fab.jobs = s.fab.jobs ++ [j] ∧ j.out = some q.src ∧
        j.msg = .atomReply q.id (some (BitVec.ofNat 64 old)) 0) ∧
      (t.incoming? (inKey q.src q.id)).isSome = true) ∧
    (∀ k, s.atomCore q = some k →
      let r := s.sync k true false false (pas.map Loc.mem) (fun x => some (op x))
      exec (.remoteAtomic q) s = .next (((r.1.servedRows pas).addIncoming (atomDone q (BitVec.ofNat 64 r.2))).addJob 0
        (some q.src) 1 (.atomReply q.id (some (BitVec.ofNat 64 r.2)) 0)))) ∧
  (∀ (s : State) (q : AtomReq) (f : MemFault), s.incoming? (inKey q.src q.id) = none → s.now ≤ q.since + 1000000 →
    s.locs noCore 0 .atomic false (span q.addr.toNat (atomBytes q.ty)) = .error f → f.replayable = false →
    exec (.remoteAtomic q) s = .next (s.addJob 0 (some q.src) 1 (.atomReply q.id none 1))) ∧
  (∀ (s : State) (q : AtomReq), s.incoming? (inKey q.src q.id) = none → q.since + 1000000 < s.now →
    exec (.remoteAtomic q) s = .next s) ∧
  (∀ (s : State) (q : AtomReq) (x : Incoming), s.incoming? (inKey q.src q.id) = some x →
    ∃ t : State, exec (.remoteAtomic q) s = .next t ∧ t.g = s.g ∧
      ∃ j : FabJob, t.fab.jobs = s.fab.jobs ++ [j] ∧ j.out = some q.src ∧
        ∀ old : Word, x = atomDone q old → j.msg = .atomReply q.id (some old) 0) ∧
  (∀ (s : State) (k : BitVec 10), (k ∈ s.fab.lost ∨ k = s.pkgId) → exec (.peerLostNotice k) s = .next s) ∧
  (∀ (s : State) (k : BitVec 10), k ∉ s.fab.lost → k ≠ s.pkgId →
    let t : State := { s with fab := { s.fab with lost := s.fab.lost ++ [k]
                                                  jobs := s.fab.jobs.filter (fun j => match j.msg with
                                                    | .atomRequest a => j.out.isSome || a.src != k
                                                    | _ => true) } }
    let u := (s.fab.armed.filter (fun a => inGroup a.group k.toNat)).foldl (fun v a => v.flagOr a.core a.region a.addr) t
    exec (.peerLostNotice k) s = .next ((u.failTo k).postEvent [u.slate.toNat, k.toNat, 0, 0, 0, 0, 0, 7])) ∧
  (∀ (s : State) (core region : Nat) (va : Word) (pas : List Nat), s.memoryOk → pas.Nodup → pas.length = 8 →
    s.locs core region .atomic false (span va.toNat 8) = .ok (pas.map Loc.mem) →
    pas.map (Memory.read (s.flagOr core region va).g) =
      toBytes 8 (ofBytes (pas.map (Memory.read s.g)) ||| 2 ^ 63) ∧
    ∀ x, x ∉ pas → Memory.read (s.flagOr core region va).g x = Memory.read s.g x)

/-- A lossy transfer at its destination, and how transfers end (R309 to R312, R314). A header is accepted when every page of the
transfer translates, its counter's for an atomic; one of length 0, or whose deadline has passed, then ends at once. A block that
comes whole before the deadline is written, or its elements added, and its bit set; at the deadline each block that did not come is
zero in memory and its bit clear, and the transfer completes; a fault that the zero fill meets holds the transfer or fails it (log
113, DEDUCED). The counter of a transfer counts one, its bit 63 kept, and the source is acknowledged; at the source the copy is
done. A transfer that is late, or has no route, fails at its source, also while a fault at the source holds it; that its record
names DST as the failing address is the model's choice (log 134), and so is that the destination counts the 1,000,000 ticks from the
tick of the issue, which the header carries (log 137).

At the destination a transfer that has failed ends: bit 63 of CNTA is set, the counter counts no more, nothing more of it is
written, and later ordered transfers need not wait for it (R310, R311). Where the destination is this package that is so at once,
and a transfer that has been performed whole does not fail; another package is told, again and again until it answers, and one that
had completed the transfer sets bit 63 then: the model's reading (logs 70 and 139, DEDUCED), as it is its choice that the message
costs one flit of the die of its crew (log 69). A lossy transfer that has been accepted goes on to its deadline all the same (R312).
RELIABLE_RESEND starts an unacknowledged put, get or reduction again from its first byte, sends an atomic's request as it was issued
(R315; log 112), and word of a failed transfer; that it may come at any time is the model's reading of R311 (log 71, DEDUCED). -/
def Obligations.TransfersEnd : Prop :=
  (∀ (s : State) (h : XferHdr), s.incoming? (xferKey h) = none → h.cls = .lossy →
    let t0 := s.addIncoming (newIncoming h)
    let kind : AccKind := if h.red = none then .store else .atomic
    (∀ ls ms : List Loc, s.locs noCore 0 kind false (lossyAddrs h) = .ok ls →
      s.locs noCore 0 .atomic false (lossyCounter h) = .ok ms → 0 < h.len → s.now < h.deadline.toNat →
      ∃ (t : State) (x : Incoming), exec (.lossyHeader h) s = .next t ∧ t.incoming? (xferKey h) = some x ∧ x.accepted = true ∧
        x.got = [] ∧ x.finished = false ∧ t.g = s.g ∧
        ∃ j : FabJob, t.fab.jobs = s.fab.jobs ++ [j] ∧ j.out = some h.src ∧ j.msg = .ack h.id) ∧
    (∀ ls ms : List Loc, s.locs noCore 0 kind false (lossyAddrs h) = .ok ls →
      s.locs noCore 0 .atomic false (lossyCounter h) = .ok ms → (h.len = 0 ∨ h.deadline.toNat ≤ s.now) →
      ∃ (t : State) (x : Incoming), exec (.lossyHeader h) s = .next t ∧ t.incoming? (xferKey h) = some x ∧ x.accepted = true ∧
        t.inbox = s.inbox ++ [.lossyDeadline (xferKey h)] ∧
        ∃ j : FabJob, t.fab.jobs = s.fab.jobs ++ [j] ∧ j.out = some h.src ∧ j.msg = .ack h.id) ∧
    (∀ f : MemFault, s.locs noCore 0 kind false (lossyAddrs h) = .error f ∨
        (∃ ls, s.locs noCore 0 kind false (lossyAddrs h) = .ok ls ∧ s.locs noCore 0 .atomic false (lossyCounter h) = .error f) →
      ((f.replayable = false ∨ f.cls = 9) → exec (.lossyHeader h) s = .next (t0.incomingFail h 1 f.va)) ∧
      (f.replayable = true → f.cls ≠ 9 →
        exec (.lossyHeader h) s = .next (t0.updIncoming (xferKey h) (fun y => { y with hold := some (f, s.now) }))))) ∧
  (∀ (s : State) (id b : Nat) (data : List Byte) (x : Incoming), s.incoming? id = some x →
    ((x.finished = true ∨ x.accepted = false ∨ b ∈ x.got ∨ x.hdr.deadline.toNat ≤ s.now) →
      exec (.lossyBlock id b data) s = .next s) ∧
    (∀ pas ms : List Nat, s.memoryOk → x.finished = false → x.accepted = true → b ∉ x.got → s.now < x.hdr.deadline.toNat →
      pas.length = data.length → (pas ++ ms).Nodup →
      s.landLocs x (span (x.hdr.dst.toNat + 256 * b) data.length ++ blockMarkAddrs x.hdr b) = .ok ((pas ++ ms).map Loc.mem) →
      ∃ t : State, exec (.lossyBlock id b data) s = .next t ∧
        (∀ y, y ∉ pas → y ∉ ms → Memory.read t.g y = Memory.read s.g y) ∧
        (x.hdr.red = none → pas.map (Memory.read t.g) = data ∧
          ∀ m, ms = [m] → Memory.read t.g m = BitVec.ofNat 8 ((Memory.read s.g m).toNat ||| 2 ^ (b % 8))) ∧
        (∀ ty, x.hdr.red = some ty → data.length % redSize ty = 0 →
          pas.map (Memory.read t.g) = redBytes ty (pas.map (Memory.read s.g)) data ∧
          (ms.length = 8 →
            ms.map (Memory.read t.g) = toBytes 8 (ofBytes (ms.map (Memory.read s.g)) ||| 2 ^ x.hdr.rank.toNat))))) ∧
  (∀ (s : State) (id : Nat) (x : Incoming), s.incoming? id = some x → x.finished = false → x.accepted = true →
    x.hdr.cls = .lossy → id = xferKey x.hdr →
    ((x.hdr.deadline.toNat ≤ s.now ∨ x.whole = true) →
      let t := (s.zeroFill x).1.updIncoming id (fun y => { y with flits := [], hold := none })
      ((s.zeroFill x).2 = none → exec (.lossyDeadline id) s = .next (t.post (.transferComplete true id)) ∧
        ∃ y, t.incoming? id = some y ∧ y.whole = true ∧ y.finished = false) ∧
      (∀ f, (s.zeroFill x).2 = some f → f.replayable = false → exec (.lossyDeadline id) s = .next (t.incomingFail x.hdr 1 f.va)) ∧
      (∀ f, (s.zeroFill x).2 = some f → f.replayable = true → exec (.lossyDeadline id) s =
        .next (t.updIncoming id (fun y => { y with hold := some (f, s.now) })))) ∧
    (s.now < x.hdr.deadline.toNat → x.whole = false → exec (.lossyDeadline id) s = .next s)) ∧
  (∀ (s : State) (x : Incoming), s.memoryOk → x.hdr.red = none → x.hdr.maska ≠ 0 →
    let late := (List.range (blockCount x.hdr.len)).filter (fun b => !x.got.contains b)
    let bytes (b : Nat) : List Nat := span (x.hdr.dst.toNat + 256 * b) 256
    let place (va : Nat) : Nat := (look (va / 4096) x.pages).getD 0 + va % 4096
    (∀ b va, b ∈ late → va ∈ maskByteAddr x.hdr b :: bytes b → va < wakeBase ∧ look (va / 4096) x.pages ≠ none) →
    (∀ b b2 va, b ∈ late → b2 ∈ late → va ∈ bytes b → place va ≠ place (maskByteAddr x.hdr b2)) →
    let t := (s.zeroFill x).1
    (s.zeroFill x).2 = none ∧
    (∀ b va, b ∈ late → va ∈ bytes b → Memory.read t.g (place va) = 0) ∧
    (∀ b, b ∈ late → (Memory.read t.g (place (maskByteAddr x.hdr b))).getLsbD (b % 8) = false) ∧
    (∀ y, (∀ b va, b ∈ late → va ∈ maskByteAddr x.hdr b :: bytes b → place va ≠ y) → Memory.read t.g y = Memory.read s.g y)) ∧
  (∀ (s : State) (x : Incoming), x.hdr.red ≠ none → (s.zeroFill x).1.g = s.g ∧ (s.zeroFill x).2 = none) ∧
  (∀ (s : State) (id : Nat) (x : Incoming) (pas : List Nat), s.memoryOk → s.incoming? id = some x → id = xferKey x.hdr →
    s.mayFinish x = true → x.hdr.cnta ≠ 0 → pas.length = 8 → pas.Nodup →
    s.locsWith noCore 0 .atomic false (span x.hdr.cnta.toNat 8) x.pages = .ok (pas.map Loc.mem) →
    let old := ofBytes (pas.map (Memory.read s.g))
    ∃ t : State, exec (.transferComplete true id) s = .next t ∧
      (let new := ofBytes (pas.map (Memory.read t.g))
       new % 2 ^ 63 = (old % 2 ^ 63 + 1) % 2 ^ 63 ∧ new / 2 ^ 63 = old / 2 ^ 63) ∧
      (∀ y, y ∉ pas → Memory.read t.g y = Memory.read s.g y) ∧
      (x.hdr.cls ≠ .lossy → ∃ j : FabJob, t.fab.jobs = s.fab.jobs ++ [j] ∧ j.out = some x.hdr.src ∧ j.msg = .ack x.hdr.id)) ∧
  (∀ (s : State) (id : Nat) (x : Incoming), s.incoming? id = some x → s.mayFinish x = false →
    exec (.transferComplete true id) s = .next s) ∧
  (∀ (s : State) (id : Nat) (c : Copy) (d : FabDesc) (cls : XferClass) (red : Option RedType), s.copy? id = some c →
    c.kind.xfer = some (d, cls, red) → c.state = .sent →
    (c.entry = 2 → exec (.transferComplete false id) s =
      .next ((s.updCopy id (fun x => { x with state := .done })).waitbAll c.crew)) ∧
    ((∀ q, q ∈ s.fab.cancels → q.2.id ≠ id) →
      (c.entry ≠ 2 → cls ≠ .lossy → s.reachable d.pkg = true →
        exec (.reliableResend id) s = .next (s.updCopy id (fun x => { x with pos := 0, state := .active }))) ∧
      (cls = .lossy → exec (.reliableResend id) s = .next s))) ∧
  (∀ (s : State) (id : Nat) (k : BitVec 10) (h : XferHdr), s.fab.cancels.find? (fun q => q.2.id == id) = some (k, h) →
    exec (.reliableResend id) s = .next (if s.reachable k then s.addJob 0 (some k) 1 (.cancel h) else s)) ∧
  (∀ (s : State) (id : Nat) (c : Copy) (d : FabDesc) (cls : XferClass) (red : Option RedType), s.copy? id = some c →
    c.kind.xfer = some (d, cls, red) → c.running = true →
    (s.reachable d.pkg = false → exec (.transferTimeout id) s = .next (s.transferFail c 3 d.dst)) ∧
    (s.reachable d.pkg = true → c.since + 1000000 < s.now →
      exec (.transferTimeout id) s = .next (s.transferFail c 4 d.dst)) ∧
    (s.reachable d.pkg = true → s.now ≤ c.since + 1000000 → exec (.transferTimeout id) s = .next s)) ∧
  (∀ (s : State) (c : Copy) (d : FabDesc) (cls : XferClass) (red : Option RedType) (cause : Nat) (a : Word),
    c.kind.xfer = some (d, cls, red) →
    let h := s.headerOf c d cls red
    let u := s.copyFault c { cls := 12, cause := cause, va := a, replayable := false }
    let here : Prop := (c.kind matches .get _ _) = true ∨ d.pkg = s.pkgId
    let performed : Prop := ∃ x, s.incoming? (xferKey h) = some x ∧ x.hdr.cls ≠ .lossy ∧ x.finished = true ∧ x.failed = false
    (performed → s.transferFail c cause a = (s.updCopy c.id (fun x =>
      { x with entry := 2, state := if x.running then .sent else x.state })).post (.transferComplete false c.id)) ∧
    (¬ performed → here → s.transferFail c cause a = u.cancelled h) ∧
    (¬ performed → ¬ here → s.transferFail c cause a = { u with fab := { u.fab with cancels := u.fab.cancels ++ [(d.pkg, h)] } }.addJob
      (dieOf c.core) (some d.pkg) 1 (.cancel h))) ∧
  (∀ (s : State) (h : XferHdr) (x : Incoming), s.incoming? (xferKey h) = some x →
    let t := s.flagCounter h.cnta
    (x.accepted = true → x.hdr.cls = .lossy → s.cancelled h = s) ∧
    (x.finished = true → x.failed = true → s.cancelled h = s) ∧
    (x.hdr.cls ≠ .lossy → x.finished = true → x.failed = false →
      s.cancelled h = t.updIncoming (xferKey h) (fun y => { y with failed := true })) ∧
    (x.finished = false → (x.hdr.cls ≠ .lossy ∨ x.accepted = false) →
      s.cancelled h = (t.updIncoming (xferKey h) (fun y =>
        { y with finished := true, failed := true, hold := none, pages := [], flits := [] })).seqDone h)) ∧
  (∀ (s : State) (h : XferHdr), s.incoming? (xferKey h) = none → s.cancelled h = (s.addIncoming (newIncoming h)).cancelled h) ∧
  (∀ (s : State) (h : XferHdr), h.cls = .ord →
    (h.seq = seqOf h.src s.fab.seqIn → h.seq < seqOf h.src (s.seqDone h).fab.seqIn) ∧
    (h.seq ≠ seqOf h.src s.fab.seqIn → (s.seqDone h).fab.seqIn = s.fab.seqIn ∧
      ∀ x, s.incoming? (xferKey h) = some x → (s.seqDone h).incoming? (xferKey h) = some { x with passed := true })) ∧
  (∀ (s : State) (h : XferHdr) (off : Nat) (data : List Byte) (x : Incoming), s.incoming? (xferKey h) = some x →
    (x.finished = true → x.failed = true → s.landPiece h off data = (s, false)) ∧
    (x.finished = false → off / 64 ∉ x.got → x.hdr.cls ≠ .lossy → x.since + 1000000 < s.now →
      s.landPiece h off data = (s.incomingFail h 4 h.dst, false)) ∧
    (x.finished = true ∨ (x.hdr.cls ≠ .lossy ∧ x.since + 1000000 < s.now) → s.mayFinish x = false)) ∧
  (∀ (s : State) (h : XferHdr), s.absorb (.cancel h) = ((s.cancelled h).addJob 0 (some h.src) 1 (.ack h.id), false)) ∧
  (∀ (s : State) (id : Nat) (q : BitVec 10 × XferHdr),
    q ∈ (s.absorb (.ack id)).1.fab.cancels ↔ q ∈ s.fab.cancels ∧ q.2.id ≠ id) ∧
  (∀ (s : State) (r : PathRef) (c : Crew) (p : Path) (q : AtomReq) (dst : Nat) (acq : Bool) (k : BitVec 10),
    s.copy? q.id = none → s.allPaths = [(r, p)] → p.wait = .ratom q dst acq k → s.crew? r.crew = some c →
    (∀ x, x ∈ s.fab.cancels → x.2.id ≠ q.id) →
    exec (.reliableResend q.id) s =
      .next (if s.reachable k then s.addJob (dieOf c.core) (some k) 1 (.atomRequest q) else s)) ∧
  (∀ (s : State) (j : FabJob) (k : BitVec 10), j.out = some k → s.reachable k = false → s.runJob j = s.dropJob j.id) ∧
  (∀ c : Copy, c.running = true ↔ c.state = .active ∨ c.state = .sent ∨ ∃ f n, c.state = .held f n)

/-! ### Links, routing, power -/

/-- Links and routing banks (R296, R297, R299 to R303). A link on which, in either direction, nothing is delivered for longer than
LNKTO goes down with its keys; an idle one sends an idle flit; each flit has its own count, which stays below 2^62. A bring-up
offers this end's ephemeral key, signed under the identity key, with its certificates; one whose exchange verifies the peer gives
the keys of both directions, the next epoch and counter 0; one that fails leaves the link down and counts a failure up to 255; a
fresh exchange that fails takes the link down. Writing START on a link that is up starts a bring-up too, and the link carries on
until its outcome: the model's choice (log 98); so is that a link which goes down loses packets of the control class as it loses
others (log 118). The held packets of one link leave in the order of their classes, whatever waits for other links (R304; log 29).
LNKTO is kept within its range. A bank in use refuses a write of an entry, an invalid bank refuses to be the injection bank, the
injection bank refuses to lose its VALID bit: each sets RERR and changes nothing else. -/
def Obligations.LinksAndRouting : Prop :=
  (∀ (s : State) (k : Nat), k < 64 → k < s.fab.ports.length →
    let q := s.port k
    let linked : Prop := s.mode = .full ∧ Config.neighbourPresent k = true
    let fresh (p : Port) (ks : BitVec 256 × BitVec 256) : Prop :=
      p.keys = some ks ∧ p.ctr = 0 ∧ p.epoch = (q.epoch + 1) % 65536
    (q.up = true → (q.lastIn + s.fab.lnkto < s.now ∨ q.lastAck + s.fab.lnkto < s.now) →
      exec (.linkTimeout k) s = .next ((s.dropLink k).slicesLost k)) ∧
    (((s.dropLink k).port k).up = false ∧ ((s.dropLink k).port k).keys = none ∧ ((s.dropLink k).port k).down = true ∧
      ∀ f, f ∈ (s.dropLink k).fab.sent ↔ f ∈ s.fab.sent ∧ f.port ≠ k) ∧
    ((q.up = false ∨ (s.now ≤ q.lastIn + s.fab.lnkto ∧ s.now ≤ q.lastAck + s.fab.lnkto)) →
      exec (.linkTimeout k) s = .next s) ∧
    (q.up = true → q.lastOut + 1000 ≤ s.now → q.ctr + 1 < 2 ^ 62 →
      ∃ (t : State) (f : SentFlit), exec (.idleFlit k) s = .next t ∧ t.fab.sent = s.fab.sent ++ [f] ∧ f.port = k ∧ f.ctr = q.ctr ∧
        f.p.msg = .idle ∧ (t.port k).ctr = q.ctr + 1 ∧ (t.port k).lastOut = s.now) ∧
    ((q.up = false ∨ s.now < q.lastOut + 1000 ∨ 2 ^ 62 ≤ q.ctr + 1) → exec (.idleFlit k) s = .next s) ∧
    (∀ p : Packet, ((s.givePacket k p).port k).ctr = q.ctr + flitsOf p.msg ∧
      ∃ l : List SentFlit, (s.givePacket k p).fab.sent = s.fab.sent ++ l ∧ l.length = flitsOf p.msg ∧
        ∀ n, ∀ h : n < l.length, l[n].ctr = q.ctr + n ∧ l[n].port = k ∧ l[n].p = p) ∧
    (linked → q.bringing = false →
      ∃ t : State, exec (.linkStart k) s = .next t ∧ (t.port k).bringing = true ∧ (t.port k).attempts = q.attempts + 1 ∧
        (t.port k).up = q.up ∧ (t.port k).keys = q.keys ∧
        ∃ x : KeyOffer, (t.port k).offer = some x ∧ x.cert = Config.ownCert ∧
          x.sig = Config.identitySign (toBytes 64 (Config.sha512 x.key).toNat)) ∧
    ((¬ linked ∨ q.bringing = true) → exec (.linkStart k) s = .next s) ∧
    (linked → q.auto = true → q.down = true → q.up = false → q.bringing = false → q.retryAt ≤ s.now →
      exec (.linkAutoBringup k) s = .next (s.beginBringup k)) ∧
    ((¬ linked ∨ q.auto = false ∨ q.up = true) → exec (.linkAutoBringup k) s = .next s) ∧
    (∀ (offer : KeyOffer) (ks : BitVec 256 × BitVec 256), linked → q.bringing = true →
      exchange k q.attempts offer = some ks →
      ∃ t : State, exec (.linkBringupComplete k (some offer)) s = .next t ∧ (t.port k).up = true ∧ fresh (t.port k) ks ∧
        (t.port k).down = false ∧ (t.port k).fails = 0 ∧ (t.port k).bringing = false) ∧
    (∀ offer : Option KeyOffer, q.bringing = true →
      (¬ linked ∨ ∀ x, offer = some x → exchange k q.attempts x = none) →
      ∃ t : State, exec (.linkBringupComplete k offer) s = .next t ∧ (t.port k).down = true ∧ (t.port k).up = false ∧
        (t.port k).fails = min 255 (q.fails + 1) ∧ (t.port k).bringing = false) ∧
    (∀ offer, q.bringing = false → exec (.linkBringupComplete k offer) s = .next s) ∧
    (∀ (offer : KeyOffer) (ks : BitVec 256 × BitVec 256), q.up = true → 2 ^ 62 ≤ q.ctr + 16 →
      exchange k (q.attempts + 1) offer = some ks →
      ∃ t : State, exec (.linkRekey { port := k, offer := offer }) s = .next t ∧ (t.port k).up = true ∧ fresh (t.port k) ks) ∧
    (∀ offer : KeyOffer, q.up = true → 2 ^ 62 ≤ q.ctr + 16 → exchange k (q.attempts + 1) offer = none →
      exec (.linkRekey { port := k, offer := offer }) s = .next ((s.dropLink k).slicesLost k)) ∧
    (∀ offer : KeyOffer, (q.up = false ∨ q.ctr + 16 < 2 ^ 62) → exec (.linkRekey { port := k, offer := offer }) s = .next s)) ∧
  (∀ (port n : Nat) (x : KeyOffer) (ks : BitVec 256 × BitVec 256), exchange port n x = some ks ↔
    ∃ id, Config.certifiedKey x.cert = some id ∧ Config.signatureOk id (Config.sha512 x.key) x.sig = true ∧
      ks = (Config.hkdf (Config.sharedSecret port n x.key) true, Config.hkdf (Config.sharedSecret port n x.key) false)) ∧
  (∀ (s : State) (k : Option Nat), s.order.filter (fun p => s.linkOf p == k) =
    classOrder s.fab.weights (s.fab.held.filter (fun p => s.linkOf p == k))) ∧
  (∀ (s : State) (v : Word), ∃ t : State, exec (.lnktoWrite v) s = .next t ∧ 10000 ≤ t.fab.lnkto ∧ t.fab.lnkto ≤ 10000000 ∧
    (10000 ≤ v.toNat → v.toNat ≤ 10000000 → t.fab.lnkto = v.toNat)) ∧
  (∀ (s : State) (b : BitVec 1) (k : BitVec 10) (v : BitVec 16),
    let refused := Host.Outcome.next ({ s with fab := { s.fab with rerr := true } })
    ((s.fab.inj = b ∨ 0 < s.heldCount b) → exec (.routingEntryWrite b k v) s = refused) ∧
    (s.fab.inj ≠ b → s.heldCount b = 0 →
      ∃ t : State, exec (.routingEntryWrite b k v) s = .next t ∧ t.routeEntry b k = v &&& 0xC3FF ∧
        (∀ b2 k2, (b2, k2) ≠ (b, k) → t.routeEntry b2 k2 = s.routeEntry b2 k2) ∧ t.fab.rerr = s.fab.rerr) ∧
    (s.bankValid b = false → exec (.frctlInjWrite b) s = refused) ∧
    (s.bankValid b = true →
      (∀ d, (({ s with fab := { s.fab with inj := b } } : State).reachable d = false → s.reachable d = false)) →
      ∃ t : State, exec (.frctlInjWrite b) s = .next t ∧ t.fab.inj = b ∧ t.fab.rerr = s.fab.rerr) ∧
    (s.fab.inj = b → exec (.frctlValidWrite b false) s = refused) ∧
    (∀ x, (x = true ∨ s.fab.inj ≠ b) →
      ∃ t : State, exec (.frctlValidWrite b x) s = .next t ∧ t.bankValid b = x ∧ (∀ c, c ≠ b → t.bankValid c = s.bankValid c)) ∧
    exec .frctlRerrClear s = .next { s with fab := { s.fab with rerr := false } })

/-- The token words (R343 to R345). TKRSV makes the crew's reserve the wanted one, at most 2^18; to raise it, it moves what is
wanted, as far as the core's unreserved balance and the bound of 2^19 for the reserves of all crews of the core allow, and nothing
while the core is held for a path of another crew; core and crew together keep their tokens. CUE gives the status of its checks or
sends a cue for an interval at least 8 on. BLST sets, replaces or ends the region's list of the die; that a list which is used up
keeps its place among the 64 is the model's reading (log 58, DEDUCED). -/
def Obligations.TokenWords : Prop :=
  (∀ (o : FieldsS) (s : State) (e : Env), s.taken (.tkrsv o) = some e →
    let n := min (e.v.rs o.ss.toNat).toNat (2 ^ 18)
    let old := e.c.reserve
    let k := s.core e.c.core
    let all := ((s.crews.filter (fun c => c.core == e.c.core && c.holdsSlot)).map (fun c => c.reserve)).sum
    let ends (new : Nat) : Prop :=
      exec (.tkrsv o) s = .next (e.finish (.tkrsv o) (((s.updCore e.c.core (fun k =>
        { k with bal := k.bal + old - new })).updCrew e.r.crew (fun c => { c with reserve := new })).ws e.r.crew o.dst.toNat
          (BitVec.ofNat 64 new))) ∧ new ≤ k.bal + old
    (n ≤ old → ends n) ∧
    (old < n → (∀ r, k.hold = some r → r.crew = e.c.id) → ends (old + min (n - old) (min k.bal (2 ^ 19 - all)))) ∧
    (∀ r, old < n → k.hold = some r → r.crew ≠ e.c.id → ends old) ∧
    (all ≤ 2 ^ 19 → (s.crews.filter (fun c => c.id == e.c.id)).length = 1 →
      ∃ t, exec (.tkrsv o) s = .next t ∧
        ((t.crews.filter (fun c => c.core == e.c.core && c.holdsSlot)).map (fun c => c.reserve)).sum ≤ 2 ^ 19)) ∧
  (∀ (o : FieldsS) (s : State) (e : Env), s.taken (.cue o) = some e →
    let w := (e.v.rs o.ss.toNat).toNat
    let rise := bits w 25 16
    let dur := bits w 15 0
    let bad : Prop := bits w 63 48 ≠ 0 ∨ bits w 31 26 ≠ 0 ∨ rise = 0 ∨ dur = 0
    let ends (t : State) (x : Nat) := Host.Outcome.next (e.finish (.cue o) (t.ws e.r.crew o.dst.toNat (BitVec.ofNat 64 x)))
    let start := s.now / 1024 + max (bits w 47 32) 8
    (bad → exec (.cue o) s = ends s 3) ∧
    (¬bad → s.inGroup = false → exec (.cue o) s = ends s 1) ∧
    (¬bad → s.inGroup = true → 256 ≤ s.power.cues.length → exec (.cue o) s = ends s 2) ∧
    (¬bad → s.inGroup = true → s.power.cues.length < 256 →
      exec (.cue o) s = ends (s.sendCue start rise dur) (start * 2 ^ 32))) ∧
  (∀ (o : FieldsS) (s : State) (e : Env), s.taken (.blst o) = some e →
    let a := e.v.rs o.ss.toNat
    let d := dieOf e.c.core
    let mine (l : BallastList) : Bool := l.region == e.c.region
    let others := (s.die d).blists.filter (fun l => !mine l)
    let ends (l : List BallastList) (x : Word) := Host.Outcome.next (e.finish (.blst o)
      ((s.updDie d (fun k => { k with blists := l })).ws e.r.crew o.dst.toNat x))
    (a.toNat % 16 ≠ 0 → exec (.blst o) s = .next (s.takeTrap e.r (e.mkTrap 7 0 a .word))) ∧
    (a.toNat % 16 = 0 → o.imm = 0 → exec (.blst o) s = ends others 0) ∧
    (a.toNat % 16 = 0 → o.imm ≠ 0 → (s.die d).blists.any mine = false → 64 ≤ others.length →
      exec (.blst o) s = ends (s.die d).blists 1) ∧
    (a.toNat % 16 = 0 → o.imm ≠ 0 → ((s.die d).blists.any mine = true ∨ others.length < 64) →
      exec (.blst o) s = ends (others ++ [{ region := e.c.region, base := a, n := o.imm.toNat, cursor := 0 }]) 0))

/-- Ticks, the Gaffer and cues (R323, R325, R327, R331, R332, R336, R337). A tick counts SLATE by one, but where firmware corrects
drift, which it may do at one tick in 1,000, by none or two. The package bucket receives 1,000 tokens for each watt of the rate
above the uncore draw; it fills the dies, a die its cores unless its limiter has tripped, and each gets what it needs where all can
be filled, else its share by weight, rounded down, a share above its need being cut to it (log 136, DESIGN CHOICE); what the package
bucket still cannot keep passes down to the dies once more; none are made but the refill, and no bucket rises above its capacity.
The ticks of a hold are counted for each core; of crews only the ages and the token-stall marks of their paths change, an age by
none or by the cycles of the tick. The routers then hold only packets whose link awaits a fresh exchange: that all others leave at
each tick is the model's choice (log 29). GAFFER_INTERVAL does nothing when the interval has been judged (log 65, DEDUCED); else it
sets the rate: toward the demand in whole watts, or CAP where some core was held for 64 ticks, up by at most SLEW, and in a group by
the admitted rise of the package, down by at most SLEW, never above CAP. A held core's other crews give their reserves back; of two
peers stalled equally long the core is held for the taken one, which is the model's choice (log 120). A cue of another group, or one
for which the table has no room, is dropped. GCFG keeps its fields within the fused limits; another GROUP empties the cue table, and
a write that keeps GROUP keeps the table until the interval ends (log 57, DEDUCED). -/
def Obligations.TicksAndIntervals : Prop :=
  (∀ (s : State) (c0 c1 c2 c3 : Nat), ∃ t : State, exec (.slateTick c0 c1 c2 c3) s = .next t ∧
    t.slate = s.slate + BitVec.ofNat 64 s.slateStep ∧ s.slateStep ≤ 2 ∧ (s.firm.steady < 999 → s.slateStep = 1) ∧
    (s.slateStep ≠ 1 → t.firm.steady = 0) ∧ t.g = s.g ∧
    (∀ k c, s.crew? k = some c → ∃ d, t.crew? k = some d ∧ d = { c with paths := d.paths } ∧
      (∀ sel, c.path? sel = none → d.path? sel = none) ∧
      ∀ sel p, c.path? sel = some p → ∃ q, d.path? sel = some q ∧ q = { p with age := q.age, starved := q.starved } ∧
        (q.age = p.age ∨ q.age = p.age + (t.cycles - s.cycles))) ∧
    (let held (u : State) : Nat := u.power.bal + ((List.range 4).map (fun d => (u.die d).bal)).sum +
       ((List.range 256).map (fun k => (u.core k).bal)).sum
     held t ≤ held s + 1000 * (s.power.rate - s.power.uncore)) ∧
    (let u := ([c0, c1, c2, c3] : List Nat).zipIdx.foldl (fun u q => u.updDie q.2 (fun d => d.sample s.power.gcfg.ilim q.1)) s
     let v := ({ u with power := { u.power with bal := s.power.bal + 1000 * (s.power.rate - s.power.uncore) } } : State).fillDies
     let w := (((v.fillCores 0).fillCores 1).fillCores 2).fillCores 3
     let x := if 2 ^ 26 < w.power.bal then w.fillDies else w
     t.power.bal = min x.power.bal (2 ^ 26) ∧ (∀ d, (t.die d).bal = (x.die d).bal) ∧ ∀ k, (t.core k).bal = (x.core k).bal) ∧
    (∀ k, (t.core k).heldTicks = (s.core k).heldTicks + if (s.core k).hold.isSome then 1 else 0) ∧
    t.power.bal ≤ 2 ^ 26 ∧ (∀ d, (s.die d).bal ≤ 2 ^ 24 → (t.die d).bal ≤ 2 ^ 24) ∧
    (∀ k, (s.core k).bal ≤ 2 ^ 20 → (t.core k).bal ≤ 2 ^ 20) ∧
    ∀ p, p ∈ t.fab.held → p ∈ s.fab.held ∧ ∃ k, t.hopPort (headingOf p) = some k ∧ (t.port k).up = true ∧
      2 ^ 62 ≤ (t.port k).ctr + flitsOf p.msg) ∧
  (∀ s : State, s.dies.length = 4 →
    let need (d : Nat) := if s.inService d then 2 ^ 24 - (s.die d).bal else 0
    let ds := (List.range 4).filter (fun d => need d != 0)
    let t := s.fillDies
    (∀ d, d < 4 → (t.die d).bal = (s.die d).bal + if (ds.map need).sum ≤ s.power.bal then need d
      else min (need d) (s.power.bal * s.dieWeight d / (ds.map s.dieWeight).sum)) ∧
    t.power.bal + ((List.range 4).map (fun d => (t.die d).bal)).sum = s.power.bal + ((List.range 4).map (fun d => (s.die d).bal)).sum ∧
    t.cores = s.cores) ∧
  (∀ (s : State) (d : Nat), s.cores.length = 256 → d < s.dies.length → d < 4 →
    let need (k : Nat) := 2 ^ 20 - s.reserves k - (s.core k).bal
    let ks := (coresOfDie d).filter (fun k => need k != 0)
    let t := s.fillCores d
    ((s.die d).limited = true ∨ s.inService d = false → t = s) ∧
    ((s.die d).limited = false → s.inService d = true →
      (∀ k, k ∈ coresOfDie d → (t.core k).bal = (s.core k).bal + if (ks.map need).sum ≤ (s.die d).bal then need k
        else min (need k) ((s.die d).bal * s.coreWeight k / (ks.map s.coreWeight).sum)) ∧
      (t.die d).bal + ((coresOfDie d).map (fun k => (t.core k).bal)).sum =
        (s.die d).bal + ((coresOfDie d).map (fun k => (s.core k).bal)).sum ∧
      (∀ k, k ∉ coresOfDie d → t.core k = s.core k) ∧ (∀ n, n ≠ d → t.die n = s.die n) ∧ t.power = s.power)) ∧
  (∀ (s : State) (k : Nat), (s.regions.map (fun g => g.id)).Nodup → s.coreWeight k =
    1 + ((s.regions.filter (fun g => (s.crewsOn k).any (fun c => c.region == g.id))).map (fun g => g.rcb.toksh)).sum) ∧
  (∀ (avail : Nat) (bs : List (Nat × Nat × Nat)), given (shares avail bs) ≤ avail ∧
    ∀ x, x ∈ shares avail bs → ∃ b, b ∈ bs ∧ b.1 = x.1 ∧ x.2 ≤ b.2.1) ∧
  (∀ (s : State) (n : Nat), s.now / 1024 = s.power.interval → exec (.gafferInterval n) s = .next s) ∧
  (∀ (s : State) (n : Nat), s.now / 1024 ≠ s.power.interval →
    let p := s.power.joinGroup
    let cap := p.gcfg.cap
    let target := if s.cores.any (fun c => decide (64 ≤ c.heldTicks)) then cap else (s.power.drawn + 1023999) / 1024000
    let rises := (p.cues.filter (fun e => e.msg.src == s.cueSrc && e.spans (s.now / 1024))).map (fun e => e.msg.rise)
    let up := if s.mode = .full ∧ p.ggrp.group ≠ 0 ∧ p.budgetNow ≠ 0 then min p.gcfg.slew rises.sum else p.gcfg.slew
    ∃ t : State, exec (.gafferInterval n) s = .next t ∧
      (p.rate < target → t.power.rate = min (min (p.rate + up) target) cap) ∧
      (target ≤ p.rate → t.power.rate = min (max (p.rate - p.gcfg.slew) target) cap) ∧ t.power.rate ≤ s.power.gcfg.cap ∧
      t.power.rate ≤ s.power.rate + s.power.gcfg.slew ∧
      (s.power.rate ≤ s.power.gcfg.cap → s.power.rate ≤ t.power.rate + s.power.gcfg.slew) ∧
      t.power.interval = s.now / 1024 ∧ t.power.drawn = 0 ∧ t.power.ballast = 0 ∧ t.power.uncore = (n + 999) / 1000 ∧
      t.power.gcfg = s.power.gcfg) ∧
  (∀ (s : State) (k : Nat), (s.core k).hold.isSome = true → exec (.coreBucketHold k) s = .next s) ∧
  (∀ (s : State) (k : Nat) (x : PathRef × Nat × Nat), (s.core k).hold = none → chooseHold (s.starvedOn k) = some x →
    exec (.coreBucketHold k) s = .next (((s.crewsOn k).filter (fun c => c.id != x.1.crew)).foldl (fun t c => t.returnReserve c.id)
      (s.updCore k (fun d => { d with hold := some x.1 })))) ∧
  (∀ (s : State) (m : CueMsg),
    ((s.inGroup = false ∨ m.group ≠ s.power.ggrp.group ∨ 256 ≤ s.power.cues.length) →
      exec (.cueMessage m) s = .next s) ∧
    (s.inGroup = true → m.group = s.power.ggrp.group → s.power.cues.length < 256 →
      (s.now / 1024 + 4 < m.start → exec (.cueMessage m) s = .next (s.addCue m)) ∧
      (m.start ≤ s.now / 1024 + 4 → exec (.cueMessage m) s = .next (s.addCue { m with start := s.now / 1024 + 5 })))) ∧
  (∀ (s : State) (v : Word), ∃ t : State, exec (.gcfgWrite v) s = .next t ∧
    t.power.gcfg.cap = min (v.toNat / 2 ^ 41 % 2 ^ 13) s.power.fuse.fcap ∧
    t.power.gcfg.slew = max 1 (min (v.toNat / 2 ^ 31 % 2 ^ 10) s.power.fuse.fslew) ∧
    t.power.gcfg.ilim = min (v.toNat / 2 ^ 19 % 2 ^ 12) s.power.fuse.filim ∧
    t.power.fuse = s.power.fuse ∧ t.power.rate = s.power.rate ∧ t.power.cues = s.power.cues) ∧
  (∀ (s : State) (v : Word), ∃ t : State, exec (.ggrpWrite v) s = .next t ∧ t.power.ggrp.group = BitVec.ofNat 16 (v.toNat / 2 ^ 48) ∧
    (t.power.ggrp.group ≠ s.power.ggrp.group → t.power.cues = []) ∧
    (t.power.ggrp.group = s.power.ggrp.group → t.power.cues = s.power.cues))

/-! ### Services and launch queues -/

/-- SYSC (R358): the path waits for the firmware; the reply runs the service, makes the core's image current, writes the status and
the path goes on. NOTIFY posts an event; a service that does not exist answers 4, an address that is not aligned to 64 bytes 3 (log
38), a record that is not there 2. A service whose access meets a fault that is not to be replayed answers 3; one that is, a page of
the host's among them, keeps the reply back, and nothing changes, until the page has come back (R217), at most for the 100,000 ticks
of the reply, when it answers 3, which is the model's choice (log 38). FREC and BREC write the record of 64 bytes, ATTEST the report
of 384 bytes behind the nonce (R380); all answer 0 then. -/
def Obligations.Services : Prop :=
  (∀ (o : FieldsS) (s : State) (e : Env),
    let waits (svc : Nat) := Host.Outcome.next (s.updPath e.r (fun p =>
      { p with wait := .sysc svc o.dst.toNat (e.v.rs o.ss.toNat) o.imm.toNat s.now }))
    (s.taken (.syscNotify o) = some e → exec (.syscNotify o) s = waits o.sys.toNat) ∧
    (s.taken (.syscFrec o) = some e → exec (.syscFrec o) s = waits 1) ∧
    (s.taken (.syscBrec o) = some e → exec (.syscBrec o) s = waits 2) ∧
    (s.taken (.syscAttest o) = some e → exec (.syscAttest o) s = waits 3)) ∧
  (∀ (s : State) (r : PathRef) (c : Crew) (p : Path) (svc dst imm t0 : Nat) (arg : Word), s.crew? r.crew = some c →
    c.path? r.sel = some p → p.wait = .sysc svc dst arg imm t0 →
    let q := s.service c svc arg imm
    let ends (t : State) (n : Nat) := Host.Outcome.next (((t.refresh c.core).setOwn r dst (BitVec.ofNat 64 n)).advance r)
    (∀ n, q.2 = some n → exec (.syscReply r) s = ends q.1 n) ∧
    (q.2 = none → s.now < t0 + 100000 → exec (.syscReply r) s = .next s) ∧
    (q.2 = none → t0 + 100000 ≤ s.now → exec (.syscReply r) s = ends s 3)) ∧
  (∀ (s : State) (c : Crew) (svc imm : Nat) (arg : Word),
    s.service c 0 arg imm = (s.postEvent [s.slate.toNat, imm, arg.toNat, 0, 0, (Config.rcbAddress c.region).toNat, 0, 6],
      some (if s.events.drops then 1 else 0)) ∧
    (4 ≤ svc → s.service c svc arg imm = (s, some 4)) ∧
    (1 ≤ svc → svc < 4 → arg.toNat % 64 ≠ 0 → s.service c svc arg imm = (s, some 3)) ∧
    (arg.toNat % 64 = 0 → c.lastRec = none → s.service c 1 arg imm = (s, some 2)) ∧
    (arg.toNat % 64 = 0 → c.batchRecord (imm % 128) = none → s.service c 2 arg imm = (s, some 2)) ∧
    (∀ f : MemFault, arg.toNat % 64 = 0 → (s.openFor noCore c.region .store (span arg.toNat 64)).locs noCore c.region .store false
        (span arg.toNat 64) = .error f →
      (c.lastRec.isSome → s.service c 1 arg imm = (s, if f.replayable then none else some 3)) ∧
      ((c.batchRecord (imm % 128)).isSome → s.service c 2 arg imm = (s, if f.replayable then none else some 3))) ∧
    (∀ f : MemFault, arg.toNat % 64 = 0 → s.gRead noCore c.region arg.toNat 64 = .error f →
      s.service c 3 arg imm = (s, if f.replayable then none else some 3)) ∧
    (∀ (x : FaultRec) (pas : List Nat), s.memoryOk → arg.toNat % 64 = 0 → c.lastRec = some x → pas.Nodup → pas.length = 64 →
      s.locs noCore c.region .store false (span arg.toNat 64) = .ok (pas.map Loc.mem) →
      (s.service c 1 arg imm).2 = some 0 ∧
      pas.map (Memory.read (s.service c 1 arg imm).1.g) = wordBytes (x.words 0) ∧
      (∀ a, a ∉ pas → Memory.read (s.service c 1 arg imm).1.g a = Memory.read s.g a)) ∧
    (∀ (x : FaultRec) (pas : List Nat), s.memoryOk → arg.toNat % 64 = 0 → c.batchRecord (imm % 128) = some x → pas.Nodup →
      pas.length = 64 → s.locs noCore c.region .store false (span arg.toNat 64) = .ok (pas.map Loc.mem) →
      (s.service c 2 arg imm).2 = some 0 ∧
      pas.map (Memory.read (s.service c 2 arg imm).1.g) = wordBytes (x.words 0) ∧
      (∀ a, a ∉ pas → Memory.read (s.service c 2 arg imm).1.g a = Memory.read s.g a)) ∧
    (∀ (x : FaultRec) (l : Nat), c.batches.last = some l → c.batchRecord (imm % 128) = some x →
      ∃ n, (n, x) ∈ c.batches.recs ∧ n % 127 = imm % 128 ∧ n ≤ l ∧ l < n + 127) ∧
    (∀ ns pas : List Nat, s.memoryOk → arg.toNat % 64 = 0 → pas.Nodup → pas.length = 384 →
      s.locs noCore c.region .load false (span arg.toNat 64) = .ok (ns.map Loc.mem) →
      s.locs noCore c.region .store false (span (arg.toNat + 64) 384) = .ok (pas.map Loc.mem) →
      let t := (s.service c 3 arg imm).1
      let head := ns.map (Memory.read s.g) ++ toBytes 64 Config.romHash.toNat ++ toBytes 64 s.boot.hash.toNat ++
        toBytes 8 s.boot.number.toNat ++ toBytes 8 s.bootStat ++ toBytes 8 s.power.fuse.word ++ toBytes 8 s.slate.toNat ++
        toBytes 16 Config.serialNumber.toNat
      let sig := Config.identitySign (toBytes 64 (Config.sha512 head).toNat)
      (s.service c 3 arg imm).2 = some 0 ∧ (∀ a, a ∉ pas → Memory.read t.g a = Memory.read s.g a) ∧
      (sig.length = 132 → pas.map (Memory.read t.g) = head ++ sig ++ List.replicate 12 0)))

/-- Launch queues and their packets (R21, R22, R24, R370 to R375). A wake store of eight aligned bytes moves WR of a queue that is
on and not halted, forward and by no more than the ring; a bad one sets WERR, one beyond the ring halts the queue with ERR 2. A
packet in error halts its queue; any other has the effect of its kind and RD passes it. A LAUNCH that is not refused adds a running
region with CNT 1 and its seed request on the queue's die. While a reel or a take runs a LAUNCH needs a change of phase of its own,
with no region left (R382); a take whose write of a packet's units meets a fault that is to be replayed waits, and nothing changes
(R217; log 49). RESUME resumes the whole fault domain of each root it names, which is the model's reading (log 60, DEDUCED).

In minimal mode the queues from 16 on read EN as 0, keep nothing that is written to their blocks, and have WERR set by every wake
store; in recovery mode all read EN as 0 and ignore wakes (R379), and writes of their blocks too, which is the model's choice (log
150). Packets from a bridge port are placed in queue 63, whose WR moves past them, and a report goes back (R375); that one which is
too long halts the queue with ERR 2, and one that cannot be written with ERR 7 unless its fault is replayed, is the model's choice
(log 141). -/
def Obligations.LaunchQueues : Prop :=
  (∀ (s : State) (k size : Nat) (aligned : Bool) (v : Word), k < 64 → (s.mode = .full ∨ (s.mode = .minimal ∧ k < 16)) →
    let q := s.queue k
    let on : Prop := size = 8 ∧ aligned = true ∧ q.en = true ∧ q.halt = false
    ((size ≠ 8 ∨ aligned = false) →
      exec (.wakeStore k size aligned v) s = .next (s.updQueue k (fun x => { x with werr := true }))) ∧
    (on → q.wr.toNat < v.toNat → v.toNat ≤ q.rd.toNat + 2 ^ q.log2 →
      exec (.wakeStore k size aligned v) s = .next (s.updQueue k (fun x => { x with wr := v }))) ∧
    (on → v.toNat ≤ q.wr.toNat → exec (.wakeStore k size aligned v) s = .next s) ∧
    (on → q.wr.toNat < v.toNat → q.rd.toNat + 2 ^ q.log2 < v.toNat →
      exec (.wakeStore k size aligned v) s = .next ((s.updQueue k (fun x => { x with halt := true, err := 2 })).postEvent
        [s.slate.toNat, k, 2, 0, 0, 0, 0, 5])) ∧
    (size = 8 → aligned = true → (q.en = false ∨ q.halt = true) → exec (.wakeStore k size aligned v) s = .next s) ∧
    exec (.launchQueueReset k) s = .next (s.updQueue k (fun x =>
      { x with rd := x.wr, halt := false, err := 0, phaseDone := false })) ∧
    exec (.launchQueueControlWrite k v) s = .next (s.updQueue k (fun x =>
      { x with en := v.getLsbD 63
               log2 := if x.en = false ∧ 1 ≤ v.toNat % 32 ∧ v.toNat % 32 ≤ 20 then v.toNat % 32 else x.log2 }))) ∧
  (∀ (s : State) (k size : Nat) (aligned : Bool) (v : Word), k < 64 → (s.mode = .recovery ∨ (s.mode = .minimal ∧ 16 ≤ k)) →
    let bad := Host.Outcome.next (s.updQueue k (fun x => { x with werr := true }))
    (s.mode = .minimal → exec (.wakeStore k size aligned v) s = bad) ∧
    ((size ≠ 8 ∨ aligned = false) → exec (.wakeStore k size aligned v) s = bad) ∧
    (s.mode = .recovery → size = 8 → aligned = true → exec (.wakeStore k size aligned v) s = .next s) ∧
    s.queueReg k 8 = (s.queue k).log2 ∧
    (∀ i, i ∈ ([.launchQueueReset k, .launchQueueControlWrite k v, .launch k, .pad k, .controlSuspend k, .controlResume k,
      .controlTerminate k, .controlClearBootfail k, .controlAttest k, .resreq k, .phaseChange k] : List Instr) →
      exec i s = .next s)) ∧
  (∀ (s : State) (us : List (List Byte)),
    let q := s.queue 63
    let n := us.length
    let t := s.takeMsg true (.launchUnits us)
    let u := s.openFor noCore 0 .store (bridgePlaces q n)
    let on : Prop := us ≠ [] ∧ q.en = true ∧ q.halt = false
    let halts (v : State) (err : Nat) := (v.updQueue 63 (fun x => { x with halt := true, err := err })).postEvent
      [v.slate.toNat, 63, err, 0, 0, 0, 0, 5]
    s.takeMsg false (.launchUnits us) = s ∧
    (¬ on → t = s) ∧
    (on → q.rd.toNat + 2 ^ q.log2 < q.wr.toNat + n → t = halts s 2) ∧
    (∀ f : MemFault, on → q.wr.toNat + n ≤ q.rd.toNat + 2 ^ q.log2 →
      u.locs noCore 0 .store false (bridgePlaces q n) = .error f →
      (f.replayable = false → t = halts u 7) ∧ (t = halts u 7 ∨ t = u.addJob 0 none 0 (.launchUnits us))) ∧
    (∀ pas : List Nat, on → q.wr.toNat + n ≤ q.rd.toNat + 2 ^ q.log2 → s.memoryOk → 63 < s.queues.length → pas.Nodup →
      pas.length = us.flatten.length → s.locs noCore 0 .store false (bridgePlaces q n) = .ok (pas.map Loc.mem) →
      t.queue 63 = { q with wr := q.wr + BitVec.ofNat 64 n } ∧ pas.map (Memory.read t.g) = us.flatten ∧
      (∀ a, a ∉ pas → Memory.read t.g a = Memory.read s.g a) ∧
      (s.mode = .full → t.fab.bridge = s.fab.bridge ++
        (([62, 63] : List Nat).filter (fun p => (s.port p).up)).map (fun p => (p, .report (t.residency 0))))) ∧
    (∀ i, i < 64 * n → (bridgePlaces q n)[i]? =
      some ((q.rbase.toNat + 64 * ((q.wr.toNat + i / 64) % 2 ^ q.log2) + i % 64) % 2 ^ 64))) ∧
  (∀ (s : State) (k err : Nat), s.resubmit.packet k = .error (some err) → ∀ i, i ∈ ([.launch k, .pad k, .controlSuspend k,
      .controlResume k, .controlTerminate k, .controlClearBootfail k, .controlAttest k, .resreq k] : List Instr) →
    exec i s = .next ((s.updQueue k (fun x => { x with halt := true, err := err })).postEvent
      [s.slate.toNat, k, err, 0, 0, 0, 0, 5])) ∧
  (∀ (s : State) (k n : Nat) (p : ReelPacket) (f : MemFault), s.dbg.restore = [] → s.dbg.takePos = some n →
    s.dbg.packets[n]? = some p → s.serviceWrite 0 p.base.toNat p.units.flatten = .error f → f.replayable = true →
    ∀ i, i ∈ ([.launch k, .pad k, .controlSuspend k, .controlResume k, .controlTerminate k, .controlClearBootfail k, .controlAttest k,
      .resreq k, .phaseChange k] : List Instr) → exec i s = .next s) ∧
  (∀ (s : State) (k : Nat) (p : QPacket), s.resubmit.packet k = .ok p →
    let t := (s.resubmit.packetTouch p).recordPacket k p
    let ends (u : State) := Host.Outcome.next (u.consume k p.n)
    let roots := t.rootsOf k p.arg
    (p.ty = 0 → exec (.pad k) s = ends t) ∧
    (p.ty = 1 → s.mayLaunch k p = true → exec (.launch k) s = ends (t.launchRoot k p)) ∧
    (p.ty = 1 → s.mayLaunch k p = false → exec (.launch k) s = .next s) ∧
    (p.ty = 2 → p.op = 1 → exec (.controlSuspend k) s = ends (t.suspend (roots.map (fun g => g.id)))) ∧
    (p.ty = 2 → p.op = 2 → exec (.controlResume k) s = ends ((roots.flatMap t.domain).foldl (fun u id => u.resume id) t)) ∧
    (p.ty = 2 → p.op = 3 → exec (.controlTerminate k) s = ends (t.terminate (roots.map (fun g => g.id)) 0)) ∧
    (p.ty = 2 → p.op = 4 → exec (.controlClearBootfail k) s = ends { t with flash := { t.flash with bootfail := 0 } }) ∧
    (p.ty = 2 → p.op = 5 → ∀ u, t.report p.arg.toNat (attestation t (p.bytes.drop 64)) = some u →
      exec (.controlAttest k) s = ends u) ∧
    (p.ty = 3 → ∀ u, t.report p.arg.toNat (t.residency p.tag) = some u → exec (.resreq k) s = ends u) ∧
    (p.ty ≠ 0 → exec (.pad k) s = .next s)) ∧
  (∀ (s : State) (k : Nat) (p : QPacket), s.packet k = .ok p → p.ty = 1 → s.mayLaunch k p = false →
    (s.phaseEnded k p = true →
      exec (.phaseChange k) s = .next (s.boundaryAll.updQueue k (fun q => { q with phaseDone := true }))) ∧
    (s.phaseEnded k p = false → exec (.phaseChange k) s = .next s)) ∧
  (∀ (s : State) (k : Nat) (p : QPacket),
    (s.dbg.reel = false → s.dbg.take = false →
      (s.mayLaunch k p = true ↔ (s.queue k).phaseDone = true ∨ (s.queue k).phase = p.phase)) ∧
    (s.dbg.reel = true ∨ s.dbg.take = true →
      (s.mayLaunch k p = true ↔ (s.queue k).phaseDone = true ∧ ∀ g, g ∈ s.regions → g.open_ = false))) ∧
  (∀ (s : State) (k : Nat) (p : QPacket),
    let r0 := resolveRcb (parseRcb p.tmpl) none
    let r : Rcb := { r0 with karg := if 1 < p.n then BitVec.ofNat 64 (p.base + 64) else if p.arg ≠ 0 then p.arg else r0.karg }
    s.refusal r = none →
    (s.dbg.reel = true ∨ s.dbg.take = true → ∀ j, ((s.launchRoot k p).queue j).phaseDone = false) ∧
    ∃ (g : Region) (q : Request), (s.launchRoot k p).regions = s.regions ++ [g] ∧ g.id = s.nextId ∧ g.rcb = r ∧ g.cnt = 1 ∧ g.state = .running ∧
      g.parent = none ∧ g.queue = some k ∧ g.phase = p.phase ∧ g.tag = p.tag ∧ g.seed = some q ∧ q.die = k / 16 ∧
      q.entry = r.entry ∧ q.arg = 0 ∧ q.region = g.id ∧ (s.launchRoot k p).crews = s.crews)

/-! ### Crews, clauses, regions -/

/-- The issue of a clause (R45, R46, R60, R99 to R106, R137, R326, R327): with its header and words fetched and sound, no entry
wait, the scoreboard free for its first word, its tokens there and its core not held for another path, the path is Eligible; it
enters the clause when its core's schedulers choose it, and its price is drawn from the crew's reserve first. Of a quadrant the
chosen path is one of normal priority when there is one, and the oldest of its priority; the place at which the rotation of the
quadrants begins is the model's choice (log 10). Before that a path waits on the barrier that its header names, while the generation
of its crew's arrival is incomplete, and on the batches that it names (R104); a fault that the barrier holds is taken. Without the
tokens the path is starved; a bad header, a fault of the fetch or a static fault is the trap of its check, and a hold for the path
ends with it (log 35, DEDUCED); a replayable fault of the fetch holds the path. The trap resumes at the clause, for an illegal word
too, where R349's table says the word and R351 the clause (log 89, DEDUCED); the record of a trap at an entry wait holds the header
as WORD (log 50, DEDUCED). While an instruction that a pre-emption stopped is still to be issued again, or is being issued again, no
path of its crew enters a clause (R58; log 91, DEDUCED). -/
def Obligations.ClauseIssue : Prop :=
  (∀ (s : State) (r : PathRef) (c : Crew) (p : Path) (h : Word) (ws : List Word), s.crew? r.crew = some c →
    c.path? r.sel = some p → s.crewRuns c = true → c.reissues = false → p.inside = false → p.wait = .none →
    s.fetchWord c.core c.region 0 p.side.pc.toNat = .ok h →
    let traps (t : Trap) := Host.Outcome.next ((((s.updPath r (fun x => { x with starved := none })).releaseHold c.core
      (fun x => x == r))).takeTrap r t)
    (∀ k, headerFault h = some k → exec (.clauseIssue r) s = traps (clauseTrap s.slate 2 k h 0 h)) ∧
    (∀ f, headerFault h = none → s.fetchWords c.core c.region (hdrCount h + 1) 1 (p.side.pc.toNat + 8) = .error f →
      (f.replayable = true → exec (.clauseIssue r) s = .next (s.updPath r (fun x => { x with wait := .fault f s.now }))) ∧
      (f.replayable = false → exec (.clauseIssue r) s = traps (clauseTrap s.slate f.cls f.cause f.va 0 0))) ∧
    (headerFault h = none → s.fetchWords c.core c.region (hdrCount h + 1) 1 (p.side.pc.toNat + 8) = .ok ws →
      (∀ b, hdrWbar h < 96 → s.barrier? c.core (hdrWbar h) = some b → b.region = c.region →
        (∀ q, b.pending = some q → exec (.clauseIssue r) s = .next ((s.setBarrier c.core (hdrWbar h) { b with pending := none }).takeTrap r
          { clauseTrap q.slate 11 q.cause (BitVec.ofNat 64 (hdrWbar h)) 0 h with bar := some q })) ∧
        (b.pending = none → look (hdrWbar h) c.arrivals = some b.gen →
          let w := s.updPath r (fun x => { x with wait := .entry (hdrWbar h) b.gen, hdr := h })
          (b.expired = false → exec (.clauseIssue r) s = .next w) ∧
          (b.expired = true → exec (.clauseIssue r) s = .next (w.barrierFault c.core (hdrWbar h) 2 b))) ∧
        (b.pending = none → look (hdrWbar h) c.arrivals ≠ some b.gen → s.entryBarrier c h = none)) ∧
      (s.entryBarrier c h = none → hdrWbatch h ≠ 127 → c.covers (hdrWbatch h) ≠ [] →
        exec (.clauseIssue r) s = .next ((s.updPath r (fun x =>
          { x with wait := .waitb (c.covers (hdrWbatch h)) none, hdr := h })).waitbJudge r)) ∧
      ((hdrWbatch h = 127 ∨ c.covers (hdrWbatch h) = []) → c.entryBatches h = [])) ∧
    (headerFault h = none → s.fetchWords c.core c.region (hdrCount h + 1) 1 (p.side.pc.toNat + 8) = .ok ws →
      s.entryBarrier c h = none → c.entryBatches h = [] →
      (∀ f, staticFault h ws = some f → exec (.clauseIssue r) s = traps (f.trap s.slate h)) ∧
      (∀ i, staticFault h ws = none → decodeWord (hdrPair h 0) (ws.headD 0) = some i →
        p.blocked (c.readUnits (uses i)) (c.writeUnits (uses i)) = true → exec (.clauseIssue r) s = .next s) ∧
      (∀ i, staticFault h ws = none → decodeWord (hdrPair h 0) (ws.headD 0) = some i →
        p.blocked (c.readUnits (uses i)) (c.writeUnits (uses i)) = false →
        let n := 4 * hdrPrice h
        (c.reserve + (s.core c.core).bal < n →
          exec (.clauseIssue r) s = .next (s.updPath r (fun x => { x with starved := some (x.starved.getD s.cycles) }))) ∧
        (n ≤ c.reserve + (s.core c.core).bal → s.heldAgainst c.core r = true →
          exec (.clauseIssue r) s = .next (s.updPath r (fun x => { x with starved := none }))) ∧
        (n ≤ c.reserve + (s.core c.core).bal → s.heldAgainst c.core r = false →
          s.eligible r = true ∧
          ((∀ m, s.issuer c.core ≠ some (r, m)) → exec (.clauseIssue r) s = .next s) ∧
          (∀ m, s.issuer c.core = some (r, m) →
            ∃ t d q, exec (.clauseIssue r) s = .next t ∧ t.crew? r.crew = some d ∧ d.path? r.sel = some q ∧
              q.inside = true ∧ q.idx = 0 ∧ q.words = ws ∧ q.hdr = h ∧ q.side = p.side ∧ q.age = 0 ∧
              d.reserve = c.reserve - min c.reserve n ∧
              (c.core < s.cores.length → (t.core c.core).bal = (s.core c.core).bal - (n - min c.reserve n) ∧
                (t.core c.core).hold = none ∧ (t.core c.core).turn = (m + 1) % 16) ∧
              t.power.drawn = s.power.drawn + n ∧ t.g = s.g ∧ d.s = c.s ∧ d.k = c.k ∧ d.urs = c.urs))))) ∧
  (∀ (s : State) (r : PathRef) (c : Crew) (p : Path) (f : MemFault), s.crew? r.crew = some c → c.path? r.sel = some p →
    s.crewRuns c = true → c.reissues = false → p.inside = false → p.wait = .none →
    s.fetchWord c.core c.region 0 p.side.pc.toNat = .error f →
    (f.replayable = true → exec (.clauseIssue r) s = .next (s.updPath r (fun x => { x with wait := .fault f s.now }))) ∧
    (f.replayable = false → exec (.clauseIssue r) s = .next ((((s.updPath r (fun x => { x with starved := none })).releaseHold c.core
      (fun x => x == r))).takeTrap r (clauseTrap s.slate f.cls f.cause f.va 0 0)))) ∧
  (∀ (slate : Word) (cls cause : Nat) (val : Word) (word : Nat) (inst : Word),
    (clauseTrap slate cls cause val word inst).resume = .clause) ∧
  (∀ (s : State) (core : Nat) (r : PathRef) (m : Nat), s.issuer core = some (r, m) →
    ∃ q x, x ∈ s.rivals core q ∧ x.ref = r ∧ s.eligible r = true ∧
      ∀ y, y ∈ s.rivals core q → (x.low = true → y.low = true) ∧ (y.low = x.low → y.age ≤ x.age)) ∧
  (∀ (s : State) (r : PathRef) (c : Crew), s.crew? r.crew = some c → c.reissues = true → exec (.clauseIssue r) s = .next s) ∧
  (∀ c : Crew, c.reissues = true ↔ ∃ sel q, c.path? sel = some q ∧ (q.recs ≠ [] ∨ q.cont ≠ none))

/-- The life of crews and the end of regions (R15, R20, R24, R25, R27, R30, R32, R36, R55 to R58, R290, R386). A request that comes
first and has a core and a place becomes a crew at its entry with all lanes live, its arguments in s0 and s1, its start location in
s2, its other scalars, its masks and its window 0; the first crew of a region on a core refreshes the core, a later one does not. A
seed request becomes the first crew of its region, a cast a crew with one live lane for each task and the tasks' arguments in v0, v1
and v2 (R36), and a saved crew that comes first resumes on its core as it was saved, after WAITSP with an acquire (R58, R32). A
candidate that has no core sends away the resident crew of the lowest priority below its own, the last started among these (R55),
also where its leaving alone does not make the candidate fit, which is the model's choice (log 59). One that may not be dispatched,
a restore whose part of the save area the host owns among these, keeps back those of its region that come after it, which is the
model's reading of R30 and R31 (log 37, DEDUCED). A crew is saved once all its paths stand at save points and its part of the save
area is the device's (which part that is is the model's choice, log 19), a product in flight being stopped first where no word of
its clause then waits for it (R56, R99; log 91, DEDUCED): without liveness entries its window and scalars are kept whole, else their
live part, with the tags of distribution registers saved. A page of the liveness table that the host owns holds the save, as one of
the save area does (R217); with any other fault of such a read there is no entry, which for a replayable one is the model's choice
(log 116). Its reserve returns, and of memory only its part of the save area may change. It ends once all it issued is complete, and
its end counts for the crew that spawned it and in CNT. A region that terminates ends when nothing of it is left. -/
def Obligations.CrewsAndRegions : Prop :=
  (∀ (s : State) (d : Nat), (s.now < s.firm.pausedUntil ∨ s.inService d = false) → exec (.crewDispatch d) s = .next s) ∧
  (∀ (s : State) (d : Nat) (q : Request) (l : List Candidate) (g : Region) (k : Nat) (p : Place), s.memoryOk →
    s.firm.pausedUntil ≤ s.now → s.inService d = true → s.ordered d = .request q :: l → s.region? q.region = some g →
    g.state = .running → s.liveCrews g.id < g.rcb.maxCrews → s.chooseCore g.rcb.win (s.coresOf g.rcb) = some k →
    s.placeOn k g.rcb.win = some p →
    ∃ (t : State) (c : Crew) (x : Path), exec (.crewDispatch d) s = .next t ∧ t.crews = s.crews ++ [c] ∧ c.region = g.id ∧ c.core = k ∧
      c.state = .resident ∧ c.quad = p.quad ∧ c.slot = p.slot ∧ c.paths = .one x ∧ x.readyAt q.entry ∧ x.stack = [] ∧
      x.side.exm = BitVec.allOnes 64 ∧ c.live = BitVec.allOnes 64 ∧
      c.s = [g.rcb.karg, q.arg, BitVec.ofNat 64 (k % 256 + p.quad % 4 * 2 ^ 8 + p.slot % 8 * 2 ^ 10)] ++ List.replicate 61 0 ∧
      (∀ n, n ≠ 0 → c.rk n = 0) ∧ c.urs = [] ∧ c.win = g.rcb.win ∧ t.g = s.g ∧
      (t.die d).spawnQ.length ≤ (s.die d).spawnQ.length ∧
      (g.id ∈ (s.core k).ran → ∀ a, t.plainByte k a = s.plainByte k a) ∧
      (g.id ∉ (s.core k).ran → k < s.cores.length → g.id ∈ (t.core k).ran ∧
        ∀ a, t.plainByte k a = if a ∈ (s.core k).dirty then s.plainByte k a else Memory.read s.g a)) ∧
  (∀ (s : State) (d gid : Nat) (q : Request) (l : List Candidate) (g : Region) (k : Nat) (p : Place),
    s.firm.pausedUntil ≤ s.now → s.inService d = true → s.ordered d = .seed gid q :: l → s.region? gid = some g → g.id = gid →
    g.state = .running → s.liveCrews g.id < g.rcb.maxCrews → s.chooseCore g.rcb.win (s.coresOf g.rcb) = some k →
    s.placeOn k g.rcb.win = some p →
    ∃ (t : State) (c : Crew) (x : Path), exec (.crewDispatch d) s = .next t ∧ t.crews = s.crews ++ [c] ∧ c.region = g.id ∧ c.core = k ∧
      c.state = .resident ∧ c.quad = p.quad ∧ c.slot = p.slot ∧ c.paths = .one x ∧ x.readyAt q.entry ∧
      c.live = BitVec.allOnes 64 ∧ c.parent = q.spawner ∧ ∃ h, t.region? gid = some h ∧ h.seed = none) ∧
  (∀ (s : State) (d cl : Nat) (y : Cast) (l : List Candidate) (g : Region) (k : Nat) (p : Place),
    s.firm.pausedUntil ≤ s.now → s.inService d = true → s.ordered d = .cast cl y :: l → s.region? y.region = some g →
    g.state = .running → s.liveCrews g.id < g.rcb.maxCrews →
    s.chooseCore g.rcb.win ((s.coresOf g.rcb).filter (fun n => clusterOf n == cl)) = some k → s.placeOn k g.rcb.win = some p →
    ∃ (t : State) (c : Crew) (x : Path), exec (.crewDispatch d) s = .next t ∧ t.crews = s.crews ++ [c] ∧ c.region = g.id ∧ c.core = k ∧
      c.state = .resident ∧ c.paths = .one x ∧ x.readyAt (g.rcb.entry + BitVec.ofNat 64 (8 * y.entry.toNat)) ∧
      (∀ i, i < 64 → c.live.getLsbD i = decide (i < y.tasks.length)) ∧ x.side.exm = c.live ∧
      c.rs 0 = g.rcb.karg ∧ c.rs 1 = BitVec.ofNat 64 y.entry.toNat ∧ c.urs = castArgs g.rcb.views.v g.rcb.win y.tasks) ∧
  (∀ (view : BitVec 32) (win : Nat) (ts : List LaneTask) (j : Nat) (t : LaneTask), ts[j]? = some t → ts.length ≤ 64 →
    (viewBase view + 3) * 256 ≤ win * 4096 →
    let v (n : Nat) := Memory.readNat (castArgs view win ts) ((viewBase view + n) * 256 + 4 * j) 4
    v 0 = t.a1.toNat ∧ v 1 = t.a2.toNat ∧ v 2 = t.a3.toNat) ∧
  (∀ (s : State) (d : Nat) (c : Crew) (l : List Candidate) (g : Region) (k : Nat) (p : Place), s.crew? c.id = some c →
    s.firm.pausedUntil ≤ s.now → s.inService d = true → s.ordered d = .restore c :: l → s.region? c.region = some g →
    g.state = .running → s.areaHeld g c.area = false → s.chooseCore g.rcb.win [c.core] = some k → s.placeOn k g.rcb.win = some p →
    k = c.core ∧ ∃ t : State, exec (.crewDispatch d) s = .next t ∧
      t.crew? c.id = some { c with state := .resident, quad := p.quad, slot := p.slot, unit := p.unit } ∧
      (∀ n, n ≠ c.id → t.crew? n = s.crew? n) ∧ t.g = s.g ∧
      (c.state ≠ .saved .waitsp → t.cores = s.cores) ∧
      (c.state = .saved .waitsp → s.memoryOk → c.core < s.cores.length → ∀ a,
        t.plainByte c.core a = if a ∈ (s.core c.core).dirty then s.plainByte c.core a else Memory.read s.g a)) ∧
  (∀ (s : State) (d : Nat) (x : Candidate) (l : List Candidate) (g : Region), s.firm.pausedUntil ≤ s.now → s.inService d = true →
    s.ordered d = x :: l → s.region? x.region = some g → s.admits g x = true → s.chooseCore g.rcb.win (s.coresFor g x) = none →
    s.savingOn (s.coresFor g x) = false →
    ∀ v, s.victim g.rcb.prio (s.coresFor g x) = some v →
      exec (.crewDispatch d) s = .next (s.updCrew v.id (fun c => { c with state := .saving .preempt }))) ∧
  (∀ (s : State) (d : Nat) (x : Candidate) (l : List Candidate) (g : Region), s.firm.pausedUntil ≤ s.now → s.inService d = true →
    s.ordered d = x :: l → s.region? x.region = some g → s.admits g x = false → (∀ y, y ∈ l → y.region = x.region) →
    exec (.crewDispatch d) s = .next s) ∧
  (∀ (s : State) (g : Region) (c : Crew), s.admits g (.restore c) = true ↔ g.state = .running ∧ s.areaHeld g c.area = false) ∧
  (∀ (s : State) (g : Region) (part : Nat), s.areaHeld g part = true ↔ ∃ p, p ∈ s.areaLeaves g part ∧ bit p.1 59 = true) ∧
  (∀ (s : State) (prio : Nat) (cores : List Nat),
    let may (w : Crew) : Prop := w ∈ s.crews ∧ w.state = .resident ∧ w.core ∈ cores ∧ s.prio w.region < prio
    (s.victim prio cores = none ↔ ∀ w, ¬ may w) ∧
    (∀ v, s.victim prio cores = some v → may v ∧ ∀ w, may w →
      s.prio v.region ≤ s.prio w.region ∧ (s.prio w.region = s.prio v.region → w.started ≤ v.started))) ∧
  (∀ (s : State) (id : Nat) (c : Crew) (why : SaveWhy), s.crew? id = some c → c.state = .saving why →
    let still : Prop := ∀ q, q ∈ c.allPaths → ∀ run, q.2.wait = .slices run → c.stoppable q.1 q.2 = false
    let stands : Prop := ∀ q, q ∈ c.allPaths → q.2.atSavePoint = true
    let inWin (n : Nat) : Bool := decide (n < c.win * 16)
    let kept (d : Crew) (saved : Nat → Bool) : Prop :=
      d.state = .saved why ∧ d.reserve = 0 ∧ d.k = c.k ∧ d.acc = c.acc ∧ d.sys = c.sys ∧ d.views = c.views ∧ d.live = c.live ∧
      d.children = c.children ∧ d.urs = c.urs.filter (fun x => saved (x.1 / 256)) ∧
      (∀ g, s.region? c.region = some g → d.area = s.savePart g) ∧
      ∀ n, d.tags.getD n 0 = if (c.granulesOf .dist n).any saved then c.tags.getD n 0 else 0
    let frame (t : State) : Prop := ∀ g, s.region? c.region = some g → s.memoryOk → s.dbg.guarded = [] →
      ∀ a, (∀ p, p ∈ s.saveLeaves g → a < p.2 ∨ p.2 + 4096 ≤ a) → Memory.read t.g a = Memory.read s.g a
    let held : Bool := s.saveHeld c.region || s.liveHeld c
    (¬ still → exec (.crewSave id) s = .next (s.stopSlices c)) ∧
    (still → (¬ stands ∨ held = true) → exec (.crewSave id) s = .next s) ∧
    (∀ g, s.region? c.region = some g → (s.saveHeld c.region = true ↔ ∃ p, p ∈ s.saveLeaves g ∧ bit p.1 59 = true)) ∧
    (s.liveHeld c = true ↔ ∃ q pc, q ∈ c.allPaths ∧ q.2.savePc = some pc ∧ s.findLive c.region pc.toNat = .error true) ∧
    (∀ (pc : Nat) (x : Nat × Nat × Nat) (f : MemFault),
      s.firm.codeMap.find? (fun x => decide (x.1 ≤ pc) && decide (pc < x.1 + 8 * x.2.1)) = some x →
      s.gRead noCore c.region x.2.2 64 = .error f → s.findLive c.region pc = .error (decide (f.cls = 9) && f.replayable)) ∧
    (still → stands → held = false → c.s.length = 64 → s.liveOf c = none →
      ∃ (t : State) (d : Crew), exec (.crewSave id) s = .next t ∧ t.crew? id = some d ∧ d.s = c.s ∧ kept d inWin ∧ frame t) ∧
    (∀ gl sl, still → stands → held = false → s.liveOf c = some (gl, sl) → c.recUnits = [] →
      ∃ (t : State) (d : Crew), exec (.crewSave id) s = .next t ∧ t.crew? id = some d ∧
        (∀ n, d.s.getD n 0 = if bit sl n then c.s.getD n 0 else 0) ∧
        kept d (fun n => (bit gl n || (c.resumeGranules ++ c.spillGranules).contains n) && inWin n) ∧ frame t)) ∧
  (∀ (s : State) (id : Nat) (c : Crew), s.crew? id = some c →
    (s.crewDone c = false → exec (.crewEnd id) s = .next s) ∧
    (s.crewDone c = true →
      let t := s.removeCrew c
      (c.parent = none → exec (.crewEnd id) s = .next (t.cntDown c.region)) ∧
      (∀ k, c.parent = some k → exec (.crewEnd id) s = .next (({ t.updCrew k (fun d =>
        { d with children := d.children - 1
                 since := if d.children ≤ 1 ∧ d.state = .saved .waitsp then t.stamp else d.since }) with
          stamp := t.stamp + 1 } : State).cntDown c.region)))) ∧
  (∀ (s : State) (id : Nat) (g : Region) (e : Ending) (f : MemFault), s.region? id = some g → g.ending = some e →
    e.fault = some f →
    (s.now ≤ e.since + 1000000 → exec (.endStoreTimeout id) s = .next s) ∧
    (e.since + 1000000 < s.now → exec (.endStoreTimeout id) s =
      .next (((s.endStoreEvent g (g.endTarget e).1 (g.endTarget e).2 f.late.cls f.late.cause).setEnding id
        (some { e with step := e.step.succ, fault := none })).complete id))) ∧
  (∀ (s : State) (id : Nat) (g : Region), s.region? id = some g →
    (s.canEnd g = false → exec (.regionTerminated id) s = .next s) ∧
    (s.canEnd g = true →
      let cs := s.crews.filter (fun c => c.region == id)
      let t := cs.foldl (fun u c => u.removeCrew c) (s.dropQueued id)
      exec (.regionTerminated id) s =
        .next ((((cs.map s.stepKey).foldl (fun u k => u.stepCheck k) t).beginEnd id).complete id)))

/-! ### Firmware, host, supply -/

/-- Held faults, ownership and translation (R27, R217, R218, R311, R363 to R365). What was held is tried again when its fault is
resolved, and gets the fault, no longer replayable, when it is not; where it is a store to a page that the reel guards, and only
then, the page is copied and writable again first (R382), with the others of its CONT group. A page goes to the host with every
dirty byte of it published and none kept by a core, once no lossy transfer keeps it (R312), and comes back with each core reading
memory; those of a CONT group change together in both cases, which is the model's reading (log 138, DEDUCED); the host reaches no
byte of a page that the device owns, and what no leaf maps, which is the model's choice (log 126); an invalidation leaves no covered
translation, in a TLB or with a lossy transfer, for whose end it waits (R312, R363; log 113, DEDUCED). -/
def Obligations.FaultsAndOwnership : Prop :=
  (∀ (s : State) (h : HoldRef) (f : MemFault) (since : Nat), s.heldFault h = some (f, since) →
    (f.replayable = false ∨ f.lacksW = false ∨ (∀ l, l ∈ s.groupOf f.va.toNat → look l.1 s.dbg.guarded = none) →
      exec (.faultResolved h) s = .next (s.replay h)) ∧
    (∀ l, f.replayable = true → f.lacksW = true → l ∈ s.groupOf f.va.toNat → look l.1 s.dbg.guarded ≠ none →
      exec (.faultResolved h) s = .next ((s.reelFault f.va.toNat).replay h)) ∧
    (since + 1000000 < s.now → exec (.replayTimeout h) s = .next (s.giveUp h
      { f with cls := if f.cls = 9 then 9 else 8, cause := if f.cls = 9 then 1 else 5, replayable := false })) ∧
    (s.now ≤ since + 1000000 → exec (.replayTimeout h) s = .next s) ∧
    exec (.faultResolutionFailed h) s = .next (s.giveUp h
      { f with cls := if f.cls = 9 then 9 else 8, cause := if f.cls = 9 then 2 else 5, replayable := false })) ∧
  (∀ (s : State) (h : HoldRef), s.heldFault h = none → ∀ i,
    i ∈ ([.faultResolved h, .replayTimeout h, .faultResolutionFailed h] : List Instr) → exec i s = .next s) ∧
  (∀ (s : State) (va : Nat), s.memoryOk → s.guardedAt va = true →
    let t := s.reelFault va
    (∀ l, l ∈ s.groupOf va → look l.1 t.dbg.guarded = none ∧
      (look l.1 s.dbg.guarded ≠ none → bit (Memory.readNat t.g l.1 8) 4 = true)) ∧
    (s.dbg.active = true → t.dbg.full = true ∨ ∀ l, l ∈ s.groupOf va → (look (l.2.2.1 / 4096) t.dbg.pages).isSome)) ∧
  (∀ (s : State) (va : Word) (a e pa size : Nat), s.memoryOk → s.leafPage va.toNat = some (a, e, pa, size) →
    let ls := s.groupOf va.toNat
    let inPages (x : Nat) : Prop := ∃ l, l ∈ ls ∧ l.2.2.1 ≤ x ∧ x < l.2.2.1 + l.2.2.2
    let inLeaves (x : Nat) : Prop := ∃ l, l ∈ ls ∧ l.1 ≤ x ∧ x < l.1 + 8
    let n := (ls.map (fun l => l.2.2.2 / 4096)).sum
    ((size = 4096 ∧ bit e 57 = true → ls.length = 16 ∧ ∀ l, l ∈ ls → l.1 / 128 = a / 128 ∧ l.2.2.1 = entryPA (Memory.readNat s.g l.1 8)) ∧
      (size ≠ 4096 ∨ bit e 57 = false → ls = [(a, e, pa, size)])) ∧
    (bit e 59 = true → exec (.ownershipToHost va) s = .next s) ∧
    (bit e 59 = false → exec (.ownershipToDevice va) s = .next s) ∧
    let alone : Prop := ∀ q, q ∈ s.allPaths → ∀ reg w l m k t0, q.2.wait = .waitc reg w l m k t0 none →
      w / 4096 / n ≠ va.toNat / 4096 / n
    (∀ l, l ∈ ls → s.keepsPage l.2.2.1 l.2.2.2 = true → exec (.ownershipToHost va) s = .next s) ∧
    (bit e 59 = false → (∀ l, l ∈ ls → s.keepsPage l.2.2.1 l.2.2.2 = false) → ∃ t : State, exec (.ownershipToHost va) s = .next t ∧
      (alone → ∀ l, l ∈ ls → bit (Memory.readNat t.g l.1 8) 59 = true) ∧
      (alone → (∀ k x, x ∈ (s.core k).dirty → ¬ inLeaves x) → ∀ l, l ∈ ls →
        Memory.readNat t.g l.1 8 = Memory.readNat s.g l.1 8 ||| 2 ^ 59) ∧
      (∀ k x, inPages x → x ∉ (t.core k).dirty) ∧ (∀ k x, t.plainByte k x = s.plainByte k x) ∧
      (alone → ∀ x, inPages x → ¬ inLeaves x →
        ((∃ k, k < s.cores.length ∧ x ∈ (s.core k).dirty) →
          ∃ k, k < s.cores.length ∧ x ∈ (s.core k).dirty ∧ Memory.read t.g x = s.plainByte k x) ∧
        ((∀ k, k < s.cores.length → x ∉ (s.core k).dirty) → Memory.read t.g x = Memory.read s.g x))) ∧
    (bit e 59 = true → s.dbg.restore = [] → ∃ t : State, exec (.ownershipToDevice va) s = .next t ∧
      (alone → ∀ l, l ∈ ls → Memory.readNat t.g l.1 8 = withBit (Memory.readNat s.g l.1 8) 59 false) ∧
      ∀ k x, k < s.cores.length → inPages x → x ∉ (s.core k).dirty → t.plainByte k x = Memory.read s.g x)) ∧
  (∀ (s : State) (pa : Nat) (data : List Byte), s.memoryOk →
    exec (.hostCxlAccess pa false data) s = .next s ∧
    ((∀ i, i < data.length → pa + i < firmwareBase ∧ s.hostMay (pa + i) = true) →
      ∃ t : State, exec (.hostCxlAccess pa true data) s = .next t ∧ Memory.readBytes t.g pa data.length = data ∧
        ∀ x, x < pa ∨ pa + data.length ≤ x → Memory.read t.g x = Memory.read s.g x) ∧
    ((∃ i, i < data.length ∧ (firmwareBase ≤ pa + i ∨ s.hostMay (pa + i) = false)) →
      exec (.hostCxlAccess pa true data) s = .next s)) ∧
  (∀ (s : State) (v : Word), ∃ t : State, exec (.tlbinv v) s = .next t ∧ t.firm.tlbinv = some v ∧
    ∀ w, s.firm.tlbinv = some w → ∀ c, c ∈ t.cores → ∀ x, x ∈ c.tlb → covered w.toNat x.vpn = false) ∧
  (∀ (s : State) (v : Word), s.firm.tlbinv = some v →
    (∃ y, y ∈ s.fab.incoming ∧ ∃ x, x ∈ y.pages ∧ covered v.toNat x.1 = true) → exec .tlbinvComplete s = .next s) ∧
  (∀ (s : State) (v : Word), s.firm.tlbinv = some v →
    (∀ y, y ∈ s.fab.incoming → ∀ x, x ∈ y.pages → covered v.toNat x.1 = false) →
    ∃ t : State, exec .tlbinvComplete s = .next t ∧ t.firm.tlbinv = none ∧
    (∀ c, c ∈ t.cores → ∀ x, x ∈ c.tlb → covered v.toNat x.vpn = false) ∧
    (∀ c, c ∈ t.clusters → ∀ x, x ∈ c.tlb → covered v.toNat x.vpn = false) ∧
    (∀ y, y ∈ t.fab.incoming → ∀ x, x ∈ y.pages → covered v.toNat x.1 = false) ∧
    ((∀ q, q ∈ s.allPaths → ∀ reg w l n m t0, q.2.wait = .waitc reg w l n m t0 none → covered v.toNat (w / 4096) = false) →
      t.g = s.g))

/-- Debug, reel, registers and boot (R5, R365 to R368, R376 to R383). A package that has stopped does nothing but its power-on
reset; the controls set their bits; an armed stop stops at its tick; REEL and TAKE act on a change of their bit only, and a capture
that starts beside a lossy transfer begins with the pages that this keeps (log 49), and a take submits no packet while a page of the
snapshot that the host owns is still to be restored (R217); read-only registers keep nothing, write-only ones read zero, and BAR0
reaches none below 0x3000; a power-on reset leaves the reset state in the mode that the boot ROM chooses, and BOOTFAIL one higher
unless it is recovery mode. That it keeps memory and the package id is the model's choice (logs 42 and 4), and so is SLATE 0 after
it (log 5). -/
def Obligations.DebugAndBoot : Prop :=
  (∀ s : State, s.dbg.stopped = true → Instr.powerOnReset ∉ s.inbox → step s = .next s) ∧
  (∀ (s : State) (b : Bool), exec (.debugStopArm b) s = .next { s with dbg := { s.dbg with stop := b } }) ∧
  (∀ (s : State) (b : Bool), exec (.haltEnable b) s = .next { s with dbg := { s.dbg with hen := b } }) ∧
  (∀ s : State, (s.dbg.stop = true → s.slate = s.dbg.dbgstop →
      exec .debugStop s = .next { s with dbg := { s.dbg with stopped := true } }) ∧
    ((s.dbg.stop = false ∨ s.slate ≠ s.dbg.dbgstop) → exec .debugStop s = .next s)) ∧
  (∀ s : State, exec (.reelStart s.dbg.reel) s = .next s ∧ exec (.takeStart s.dbg.take) s = .next s) ∧
  (∀ s : State, s.dbg.reel = false → ∃ t : State, exec (.reelStart true) s = .next t ∧ t.dbg.reel = true ∧ t.dbg.pkts = 0 ∧
    t.dbg.packets = [] ∧
    ((∀ x, x ∈ s.fab.incoming → x.pages = []) → t.dbg.full = false ∧ t.dbg.active = true ∧ t.dbg.pages = [] ∧ t.dbg.used = 0)) ∧
  (∀ s : State, s.dbg.reel = true → ∃ t : State, exec (.reelStart false) s = .next t ∧ t.dbg.reel = false ∧ t.dbg.active = false ∧
    t.dbg.packets = s.dbg.packets) ∧
  (∀ s : State, s.dbg.take = false → ∃ t : State, exec (.takeStart true) s = .next t ∧ t.dbg.take = true ∧ t.dbg.takePos = some 0 ∧
    t.dbg.restore = (s.dbg.pages.map (fun q => q.1)).filter (fun p => s.hostOwns (p * 4096))) ∧
  (∀ s : State, s.dbg.take = true →
    exec (.takeStart false) s = .next { s with dbg := { s.dbg with take := false, takePos := none, restore := [] } }) ∧
  (∀ (s : State) (k : Nat), s.dbg.restore ≠ [] → s.packet k = .error none) ∧
  (∀ (s : State) (q k : Nat), q < s.hist.length → k < (s.hist.getD q []).length → ∃ t : State, exec (.histogramClear q k) s = .next t ∧
    ((t.hist.getD q []).getD k 1) = 0 ∧ ∀ j, j ≠ q → t.hist.getD j [] = s.hist.getD j []) ∧
  (∀ (s : State) (v : Word), ∃ t : State, exec (.eventQueueControlWrite v) s = .next t ∧ t.events.en = v.getLsbD 63 ∧
    (6 ≤ v.toNat % 32 → v.toNat % 32 ≤ 20 → t.events.log2 = v.toNat % 32) ∧
    (v.toNat % 32 < 6 ∨ 20 < v.toNat % 32 → t.events.log2 = s.events.log2) ∧ t.events.base = s.events.base) ∧
  (∀ s : State, ∃ t : State, exec .lanternMismatch s = .next t ∧ s.now ≤ t.firm.pausedUntil ∧ t.firm.pausedUntil ≤ s.now + 100000 ∧
    s.keepsCrews t ∧ t.regions = s.regions) ∧
  (∀ (s : State) (v : Word),
    exec (.registerWrite .firmware (.reg 0x0008 v)) s = exec (.gcfgWrite v) s ∧
    exec (.registerWrite .firmware (.reg 0x0010 v)) s = exec (.ggrpWrite v) s ∧
    exec (.registerWrite .firmware (.reg 0x0108 v)) s = exec (.lnktoWrite v) s ∧
    exec (.registerWrite .firmware (.reg 0x2008 v)) s = exec (.tlbinv v) s ∧
    exec (.registerWrite .firmware (.reg 0x2000 v)) s = .next { s with firm := { s.firm with ptroot := v &&& 0x000FFFFFFFFFF000 } } ∧
    exec (.registerWrite .firmware (.reg 0x4008 v)) s = exec (.eventQueueControlWrite v) s ∧
    (∀ off, off ∈ [0x0000, 0x4010, 0x5000] → exec (.registerWrite .firmware (.reg off v)) s = .next s) ∧
    (∀ off, off < 0x3000 → exec (.registerWrite .host (.reg off v)) s = .next s) ∧
    (∀ off, 0x3000 ≤ off → off < 0x100000 → exec (.registerWrite .host (.reg off v)) s = exec (.registerWrite .firmware (.reg off v)) s)) ∧
  (∀ s : State, s.regRead 0x2008 = 0 ∧ (∀ k, k < 64 → s.regRead (0x3000 + 64 * k + 0x28) = 0) ∧
    (∀ k, k < 64 → (s.regRead (0x200 + 8 * k)).getLsbD 2 = false ∧
      (s.regRead (0x200 + 8 * k)).getLsbD 1 = (s.port k).down ∧ (s.regRead (0x200 + 8 * k)).getLsbD 0 = (s.port k).up) ∧
    (∀ off, off < 0x3000 → s.bar0Read off = 0)) ∧
  State.reset.regRead 0 = 0x0023290046500000 ∧
  (∀ s : State, ∃ t : State, exec .powerOnReset s = .next t ∧ t.mode = s.flash.boot.1 ∧ t.crews = [] ∧ t.regions = [] ∧ t.copies = [] ∧
    t.cores = State.reset.cores ∧ t.power = Power.reset ∧ t.fab = Fabric.reset ∧ t.queues = State.reset.queues ∧ t.slate = 0 ∧
    t.g = s.g ∧ t.pkgId = s.pkgId ∧
    t.flash = { s.flash with bootfail := if t.mode = .recovery then s.flash.bootfail else s.flash.bootfail + 1 }) ∧
  (∀ (s : State) (a b : Bool), ∃ t : State, exec (.powerLoss a b) s = .next t ∧ t.dbg.stopped = true ∧ t.flash.bootfail = s.flash.bootfail ∧
    (a = false → t.flash.slotA = s.flash.slotA ∧ t.flash.slotB = s.flash.slotB) ∧
    (b = false → t.flash.areaA = s.flash.areaA ∧ t.flash.areaB = s.flash.areaB))

end Statements
end

