-- ==== Sys2Proof/Laws/State.lean ====
section
/-! SUPPORT. What each update of the state leaves alone, one lemma for each field. -/

namespace Sys2Proof.Machine

/-! ### State.noted -/

@[simp] theorem State.noted_pkgId (s : State) (pas : List Nat) : (s.noted pas).pkgId = s.pkgId := rfl
@[simp] theorem State.noted_mode (s : State) (pas : List Nat) : (s.noted pas).mode = s.mode := rfl
@[simp] theorem State.noted_slate (s : State) (pas : List Nat) : (s.noted pas).slate = s.slate := rfl
@[simp] theorem State.noted_cores (s : State) (pas : List Nat) : (s.noted pas).cores = s.cores := rfl
@[simp] theorem State.noted_clusters (s : State) (pas : List Nat) : (s.noted pas).clusters = s.clusters := rfl
@[simp] theorem State.noted_dies (s : State) (pas : List Nat) : (s.noted pas).dies = s.dies := rfl
@[simp] theorem State.noted_regions (s : State) (pas : List Nat) : (s.noted pas).regions = s.regions := rfl
@[simp] theorem State.noted_copies (s : State) (pas : List Nat) : (s.noted pas).copies = s.copies := rfl
@[simp] theorem State.noted_stepGens (s : State) (pas : List Nat) : (s.noted pas).stepGens = s.stepGens := rfl
@[simp] theorem State.noted_pins (s : State) (pas : List Nat) : (s.noted pas).pins = s.pins := rfl
@[simp] theorem State.noted_queues (s : State) (pas : List Nat) : (s.noted pas).queues = s.queues := rfl
@[simp] theorem State.noted_events (s : State) (pas : List Nat) : (s.noted pas).events = s.events := rfl
@[simp] theorem State.noted_power (s : State) (pas : List Nat) : (s.noted pas).power = s.power := rfl
@[simp] theorem State.noted_fab (s : State) (pas : List Nat) : (s.noted pas).fab = s.fab := rfl
@[simp] theorem State.noted_firm (s : State) (pas : List Nat) : (s.noted pas).firm = s.firm := rfl
@[simp] theorem State.noted_flash (s : State) (pas : List Nat) : (s.noted pas).flash = s.flash := rfl
@[simp] theorem State.noted_boot (s : State) (pas : List Nat) : (s.noted pas).boot = s.boot := rfl
@[simp] theorem State.noted_hist (s : State) (pas : List Nat) : (s.noted pas).hist = s.hist := rfl
@[simp] theorem State.noted_focus (s : State) (pas : List Nat) : (s.noted pas).focus = s.focus := rfl
@[simp] theorem State.noted_inbox (s : State) (pas : List Nat) : (s.noted pas).inbox = s.inbox := rfl
@[simp] theorem State.noted_free (s : State) (pas : List Nat) : (s.noted pas).free = s.free := rfl
@[simp] theorem State.noted_stamp (s : State) (pas : List Nat) : (s.noted pas).stamp = s.stamp := rfl
@[simp] theorem State.noted_nextId (s : State) (pas : List Nat) : (s.noted pas).nextId = s.nextId := rfl
@[simp] theorem State.noted_past (s : State) (pas : List Nat) : (s.noted pas).past = s.past := rfl
@[simp] theorem State.noted_writes (s : State) (pas : List Nat) : (s.noted pas).writes = s.writes := rfl
@[simp] theorem State.noted_cols (s : State) (pas : List Nat) : (s.noted pas).cols = s.cols := rfl
@[simp] theorem State.noted_crews (s : State) (pas : List Nat) : (s.noted pas).crews = s.crews := rfl

/-! ### State.updCrew -/

@[simp] theorem State.updCrew_pkgId (s : State) (id : Nat) (f : Crew → Crew) : (s.updCrew id f).pkgId = s.pkgId := rfl
@[simp] theorem State.updCrew_mode (s : State) (id : Nat) (f : Crew → Crew) : (s.updCrew id f).mode = s.mode := rfl
@[simp] theorem State.updCrew_slate (s : State) (id : Nat) (f : Crew → Crew) : (s.updCrew id f).slate = s.slate := rfl
@[simp] theorem State.updCrew_g (s : State) (id : Nat) (f : Crew → Crew) : (s.updCrew id f).g = s.g := rfl
@[simp] theorem State.updCrew_cores (s : State) (id : Nat) (f : Crew → Crew) : (s.updCrew id f).cores = s.cores := rfl
@[simp] theorem State.updCrew_clusters (s : State) (id : Nat) (f : Crew → Crew) : (s.updCrew id f).clusters = s.clusters := rfl
@[simp] theorem State.updCrew_dies (s : State) (id : Nat) (f : Crew → Crew) : (s.updCrew id f).dies = s.dies := rfl
@[simp] theorem State.updCrew_regions (s : State) (id : Nat) (f : Crew → Crew) : (s.updCrew id f).regions = s.regions := rfl
@[simp] theorem State.updCrew_copies (s : State) (id : Nat) (f : Crew → Crew) : (s.updCrew id f).copies = s.copies := rfl
@[simp] theorem State.updCrew_stepGens (s : State) (id : Nat) (f : Crew → Crew) : (s.updCrew id f).stepGens = s.stepGens := rfl
@[simp] theorem State.updCrew_pins (s : State) (id : Nat) (f : Crew → Crew) : (s.updCrew id f).pins = s.pins := rfl
@[simp] theorem State.updCrew_queues (s : State) (id : Nat) (f : Crew → Crew) : (s.updCrew id f).queues = s.queues := rfl
@[simp] theorem State.updCrew_events (s : State) (id : Nat) (f : Crew → Crew) : (s.updCrew id f).events = s.events := rfl
@[simp] theorem State.updCrew_power (s : State) (id : Nat) (f : Crew → Crew) : (s.updCrew id f).power = s.power := rfl
@[simp] theorem State.updCrew_fab (s : State) (id : Nat) (f : Crew → Crew) : (s.updCrew id f).fab = s.fab := rfl
@[simp] theorem State.updCrew_firm (s : State) (id : Nat) (f : Crew → Crew) : (s.updCrew id f).firm = s.firm := rfl
@[simp] theorem State.updCrew_flash (s : State) (id : Nat) (f : Crew → Crew) : (s.updCrew id f).flash = s.flash := rfl
@[simp] theorem State.updCrew_boot (s : State) (id : Nat) (f : Crew → Crew) : (s.updCrew id f).boot = s.boot := rfl
@[simp] theorem State.updCrew_dbg (s : State) (id : Nat) (f : Crew → Crew) : (s.updCrew id f).dbg = s.dbg := rfl
@[simp] theorem State.updCrew_hist (s : State) (id : Nat) (f : Crew → Crew) : (s.updCrew id f).hist = s.hist := rfl
@[simp] theorem State.updCrew_focus (s : State) (id : Nat) (f : Crew → Crew) : (s.updCrew id f).focus = s.focus := rfl
@[simp] theorem State.updCrew_inbox (s : State) (id : Nat) (f : Crew → Crew) : (s.updCrew id f).inbox = s.inbox := rfl
@[simp] theorem State.updCrew_free (s : State) (id : Nat) (f : Crew → Crew) : (s.updCrew id f).free = s.free := rfl
@[simp] theorem State.updCrew_stamp (s : State) (id : Nat) (f : Crew → Crew) : (s.updCrew id f).stamp = s.stamp := rfl
@[simp] theorem State.updCrew_nextId (s : State) (id : Nat) (f : Crew → Crew) : (s.updCrew id f).nextId = s.nextId := rfl
@[simp] theorem State.updCrew_past (s : State) (id : Nat) (f : Crew → Crew) : (s.updCrew id f).past = s.past := rfl
@[simp] theorem State.updCrew_writes (s : State) (id : Nat) (f : Crew → Crew) : (s.updCrew id f).writes = s.writes := rfl
@[simp] theorem State.updCrew_cols (s : State) (id : Nat) (f : Crew → Crew) : (s.updCrew id f).cols = s.cols := rfl

/-! ### State.updPath -/

@[simp] theorem State.updPath_pkgId (s : State) (r : PathRef) (f : Path → Path) : (s.updPath r f).pkgId = s.pkgId := rfl
@[simp] theorem State.updPath_mode (s : State) (r : PathRef) (f : Path → Path) : (s.updPath r f).mode = s.mode := rfl
@[simp] theorem State.updPath_slate (s : State) (r : PathRef) (f : Path → Path) : (s.updPath r f).slate = s.slate := rfl
@[simp] theorem State.updPath_g (s : State) (r : PathRef) (f : Path → Path) : (s.updPath r f).g = s.g := rfl
@[simp] theorem State.updPath_cores (s : State) (r : PathRef) (f : Path → Path) : (s.updPath r f).cores = s.cores := rfl
@[simp] theorem State.updPath_clusters (s : State) (r : PathRef) (f : Path → Path) : (s.updPath r f).clusters = s.clusters := rfl
@[simp] theorem State.updPath_dies (s : State) (r : PathRef) (f : Path → Path) : (s.updPath r f).dies = s.dies := rfl
@[simp] theorem State.updPath_regions (s : State) (r : PathRef) (f : Path → Path) : (s.updPath r f).regions = s.regions := rfl
@[simp] theorem State.updPath_copies (s : State) (r : PathRef) (f : Path → Path) : (s.updPath r f).copies = s.copies := rfl
@[simp] theorem State.updPath_stepGens (s : State) (r : PathRef) (f : Path → Path) : (s.updPath r f).stepGens = s.stepGens := rfl
@[simp] theorem State.updPath_pins (s : State) (r : PathRef) (f : Path → Path) : (s.updPath r f).pins = s.pins := rfl
@[simp] theorem State.updPath_queues (s : State) (r : PathRef) (f : Path → Path) : (s.updPath r f).queues = s.queues := rfl
@[simp] theorem State.updPath_events (s : State) (r : PathRef) (f : Path → Path) : (s.updPath r f).events = s.events := rfl
@[simp] theorem State.updPath_power (s : State) (r : PathRef) (f : Path → Path) : (s.updPath r f).power = s.power := rfl
@[simp] theorem State.updPath_fab (s : State) (r : PathRef) (f : Path → Path) : (s.updPath r f).fab = s.fab := rfl
@[simp] theorem State.updPath_firm (s : State) (r : PathRef) (f : Path → Path) : (s.updPath r f).firm = s.firm := rfl
@[simp] theorem State.updPath_flash (s : State) (r : PathRef) (f : Path → Path) : (s.updPath r f).flash = s.flash := rfl
@[simp] theorem State.updPath_boot (s : State) (r : PathRef) (f : Path → Path) : (s.updPath r f).boot = s.boot := rfl
@[simp] theorem State.updPath_dbg (s : State) (r : PathRef) (f : Path → Path) : (s.updPath r f).dbg = s.dbg := rfl
@[simp] theorem State.updPath_hist (s : State) (r : PathRef) (f : Path → Path) : (s.updPath r f).hist = s.hist := rfl
@[simp] theorem State.updPath_focus (s : State) (r : PathRef) (f : Path → Path) : (s.updPath r f).focus = s.focus := rfl
@[simp] theorem State.updPath_inbox (s : State) (r : PathRef) (f : Path → Path) : (s.updPath r f).inbox = s.inbox := rfl
@[simp] theorem State.updPath_free (s : State) (r : PathRef) (f : Path → Path) : (s.updPath r f).free = s.free := rfl
@[simp] theorem State.updPath_stamp (s : State) (r : PathRef) (f : Path → Path) : (s.updPath r f).stamp = s.stamp := rfl
@[simp] theorem State.updPath_nextId (s : State) (r : PathRef) (f : Path → Path) : (s.updPath r f).nextId = s.nextId := rfl
@[simp] theorem State.updPath_past (s : State) (r : PathRef) (f : Path → Path) : (s.updPath r f).past = s.past := rfl
@[simp] theorem State.updPath_writes (s : State) (r : PathRef) (f : Path → Path) : (s.updPath r f).writes = s.writes := rfl
@[simp] theorem State.updPath_cols (s : State) (r : PathRef) (f : Path → Path) : (s.updPath r f).cols = s.cols := rfl

/-! ### State.ws -/

@[simp] theorem State.ws_pkgId (s : State) (id n : Nat) (v : Word) : (s.ws id n v).pkgId = s.pkgId := rfl
@[simp] theorem State.ws_mode (s : State) (id n : Nat) (v : Word) : (s.ws id n v).mode = s.mode := rfl
@[simp] theorem State.ws_slate (s : State) (id n : Nat) (v : Word) : (s.ws id n v).slate = s.slate := rfl
@[simp] theorem State.ws_g (s : State) (id n : Nat) (v : Word) : (s.ws id n v).g = s.g := rfl
@[simp] theorem State.ws_cores (s : State) (id n : Nat) (v : Word) : (s.ws id n v).cores = s.cores := rfl
@[simp] theorem State.ws_clusters (s : State) (id n : Nat) (v : Word) : (s.ws id n v).clusters = s.clusters := rfl
@[simp] theorem State.ws_dies (s : State) (id n : Nat) (v : Word) : (s.ws id n v).dies = s.dies := rfl
@[simp] theorem State.ws_regions (s : State) (id n : Nat) (v : Word) : (s.ws id n v).regions = s.regions := rfl
@[simp] theorem State.ws_copies (s : State) (id n : Nat) (v : Word) : (s.ws id n v).copies = s.copies := rfl
@[simp] theorem State.ws_stepGens (s : State) (id n : Nat) (v : Word) : (s.ws id n v).stepGens = s.stepGens := rfl
@[simp] theorem State.ws_pins (s : State) (id n : Nat) (v : Word) : (s.ws id n v).pins = s.pins := rfl
@[simp] theorem State.ws_queues (s : State) (id n : Nat) (v : Word) : (s.ws id n v).queues = s.queues := rfl
@[simp] theorem State.ws_events (s : State) (id n : Nat) (v : Word) : (s.ws id n v).events = s.events := rfl
@[simp] theorem State.ws_power (s : State) (id n : Nat) (v : Word) : (s.ws id n v).power = s.power := rfl
@[simp] theorem State.ws_fab (s : State) (id n : Nat) (v : Word) : (s.ws id n v).fab = s.fab := rfl
@[simp] theorem State.ws_firm (s : State) (id n : Nat) (v : Word) : (s.ws id n v).firm = s.firm := rfl
@[simp] theorem State.ws_flash (s : State) (id n : Nat) (v : Word) : (s.ws id n v).flash = s.flash := rfl
@[simp] theorem State.ws_boot (s : State) (id n : Nat) (v : Word) : (s.ws id n v).boot = s.boot := rfl
@[simp] theorem State.ws_dbg (s : State) (id n : Nat) (v : Word) : (s.ws id n v).dbg = s.dbg := rfl
@[simp] theorem State.ws_hist (s : State) (id n : Nat) (v : Word) : (s.ws id n v).hist = s.hist := rfl
@[simp] theorem State.ws_focus (s : State) (id n : Nat) (v : Word) : (s.ws id n v).focus = s.focus := rfl
@[simp] theorem State.ws_inbox (s : State) (id n : Nat) (v : Word) : (s.ws id n v).inbox = s.inbox := rfl
@[simp] theorem State.ws_free (s : State) (id n : Nat) (v : Word) : (s.ws id n v).free = s.free := rfl
@[simp] theorem State.ws_stamp (s : State) (id n : Nat) (v : Word) : (s.ws id n v).stamp = s.stamp := rfl
@[simp] theorem State.ws_nextId (s : State) (id n : Nat) (v : Word) : (s.ws id n v).nextId = s.nextId := rfl
@[simp] theorem State.ws_past (s : State) (id n : Nat) (v : Word) : (s.ws id n v).past = s.past := rfl
@[simp] theorem State.ws_writes (s : State) (id n : Nat) (v : Word) : (s.ws id n v).writes = s.writes := rfl
@[simp] theorem State.ws_cols (s : State) (id n : Nat) (v : Word) : (s.ws id n v).cols = s.cols := rfl

/-! ### State.setOwn -/

@[simp] theorem State.setOwn_pkgId (s : State) (r : PathRef) (n : Nat) (v : Word) : (s.setOwn r n v).pkgId = s.pkgId := rfl
@[simp] theorem State.setOwn_mode (s : State) (r : PathRef) (n : Nat) (v : Word) : (s.setOwn r n v).mode = s.mode := rfl
@[simp] theorem State.setOwn_slate (s : State) (r : PathRef) (n : Nat) (v : Word) : (s.setOwn r n v).slate = s.slate := rfl
@[simp] theorem State.setOwn_g (s : State) (r : PathRef) (n : Nat) (v : Word) : (s.setOwn r n v).g = s.g := rfl
@[simp] theorem State.setOwn_cores (s : State) (r : PathRef) (n : Nat) (v : Word) : (s.setOwn r n v).cores = s.cores := rfl
@[simp] theorem State.setOwn_clusters (s : State) (r : PathRef) (n : Nat) (v : Word) : (s.setOwn r n v).clusters = s.clusters := rfl
@[simp] theorem State.setOwn_dies (s : State) (r : PathRef) (n : Nat) (v : Word) : (s.setOwn r n v).dies = s.dies := rfl
@[simp] theorem State.setOwn_regions (s : State) (r : PathRef) (n : Nat) (v : Word) : (s.setOwn r n v).regions = s.regions := rfl
@[simp] theorem State.setOwn_copies (s : State) (r : PathRef) (n : Nat) (v : Word) : (s.setOwn r n v).copies = s.copies := rfl
@[simp] theorem State.setOwn_stepGens (s : State) (r : PathRef) (n : Nat) (v : Word) : (s.setOwn r n v).stepGens = s.stepGens := rfl
@[simp] theorem State.setOwn_pins (s : State) (r : PathRef) (n : Nat) (v : Word) : (s.setOwn r n v).pins = s.pins := rfl
@[simp] theorem State.setOwn_queues (s : State) (r : PathRef) (n : Nat) (v : Word) : (s.setOwn r n v).queues = s.queues := rfl
@[simp] theorem State.setOwn_events (s : State) (r : PathRef) (n : Nat) (v : Word) : (s.setOwn r n v).events = s.events := rfl
@[simp] theorem State.setOwn_power (s : State) (r : PathRef) (n : Nat) (v : Word) : (s.setOwn r n v).power = s.power := rfl
@[simp] theorem State.setOwn_fab (s : State) (r : PathRef) (n : Nat) (v : Word) : (s.setOwn r n v).fab = s.fab := rfl
@[simp] theorem State.setOwn_firm (s : State) (r : PathRef) (n : Nat) (v : Word) : (s.setOwn r n v).firm = s.firm := rfl
@[simp] theorem State.setOwn_flash (s : State) (r : PathRef) (n : Nat) (v : Word) : (s.setOwn r n v).flash = s.flash := rfl
@[simp] theorem State.setOwn_boot (s : State) (r : PathRef) (n : Nat) (v : Word) : (s.setOwn r n v).boot = s.boot := rfl
@[simp] theorem State.setOwn_dbg (s : State) (r : PathRef) (n : Nat) (v : Word) : (s.setOwn r n v).dbg = s.dbg := rfl
@[simp] theorem State.setOwn_hist (s : State) (r : PathRef) (n : Nat) (v : Word) : (s.setOwn r n v).hist = s.hist := rfl
@[simp] theorem State.setOwn_focus (s : State) (r : PathRef) (n : Nat) (v : Word) : (s.setOwn r n v).focus = s.focus := rfl
@[simp] theorem State.setOwn_inbox (s : State) (r : PathRef) (n : Nat) (v : Word) : (s.setOwn r n v).inbox = s.inbox := rfl
@[simp] theorem State.setOwn_free (s : State) (r : PathRef) (n : Nat) (v : Word) : (s.setOwn r n v).free = s.free := rfl
@[simp] theorem State.setOwn_stamp (s : State) (r : PathRef) (n : Nat) (v : Word) : (s.setOwn r n v).stamp = s.stamp := rfl
@[simp] theorem State.setOwn_nextId (s : State) (r : PathRef) (n : Nat) (v : Word) : (s.setOwn r n v).nextId = s.nextId := rfl
@[simp] theorem State.setOwn_past (s : State) (r : PathRef) (n : Nat) (v : Word) : (s.setOwn r n v).past = s.past := rfl
@[simp] theorem State.setOwn_writes (s : State) (r : PathRef) (n : Nat) (v : Word) : (s.setOwn r n v).writes = s.writes := rfl
@[simp] theorem State.setOwn_cols (s : State) (r : PathRef) (n : Nat) (v : Word) : (s.setOwn r n v).cols = s.cols := rfl

/-! ### State.updCore -/

@[simp] theorem State.updCore_pkgId (s : State) (i : Nat) (f : Core → Core) : (s.updCore i f).pkgId = s.pkgId := rfl
@[simp] theorem State.updCore_mode (s : State) (i : Nat) (f : Core → Core) : (s.updCore i f).mode = s.mode := rfl
@[simp] theorem State.updCore_slate (s : State) (i : Nat) (f : Core → Core) : (s.updCore i f).slate = s.slate := rfl
@[simp] theorem State.updCore_g (s : State) (i : Nat) (f : Core → Core) : (s.updCore i f).g = s.g := rfl
@[simp] theorem State.updCore_clusters (s : State) (i : Nat) (f : Core → Core) : (s.updCore i f).clusters = s.clusters := rfl
@[simp] theorem State.updCore_dies (s : State) (i : Nat) (f : Core → Core) : (s.updCore i f).dies = s.dies := rfl
@[simp] theorem State.updCore_regions (s : State) (i : Nat) (f : Core → Core) : (s.updCore i f).regions = s.regions := rfl
@[simp] theorem State.updCore_crews (s : State) (i : Nat) (f : Core → Core) : (s.updCore i f).crews = s.crews := rfl
@[simp] theorem State.updCore_copies (s : State) (i : Nat) (f : Core → Core) : (s.updCore i f).copies = s.copies := rfl
@[simp] theorem State.updCore_stepGens (s : State) (i : Nat) (f : Core → Core) : (s.updCore i f).stepGens = s.stepGens := rfl
@[simp] theorem State.updCore_pins (s : State) (i : Nat) (f : Core → Core) : (s.updCore i f).pins = s.pins := rfl
@[simp] theorem State.updCore_queues (s : State) (i : Nat) (f : Core → Core) : (s.updCore i f).queues = s.queues := rfl
@[simp] theorem State.updCore_events (s : State) (i : Nat) (f : Core → Core) : (s.updCore i f).events = s.events := rfl
@[simp] theorem State.updCore_power (s : State) (i : Nat) (f : Core → Core) : (s.updCore i f).power = s.power := rfl
@[simp] theorem State.updCore_fab (s : State) (i : Nat) (f : Core → Core) : (s.updCore i f).fab = s.fab := rfl
@[simp] theorem State.updCore_firm (s : State) (i : Nat) (f : Core → Core) : (s.updCore i f).firm = s.firm := rfl
@[simp] theorem State.updCore_flash (s : State) (i : Nat) (f : Core → Core) : (s.updCore i f).flash = s.flash := rfl
@[simp] theorem State.updCore_boot (s : State) (i : Nat) (f : Core → Core) : (s.updCore i f).boot = s.boot := rfl
@[simp] theorem State.updCore_dbg (s : State) (i : Nat) (f : Core → Core) : (s.updCore i f).dbg = s.dbg := rfl
@[simp] theorem State.updCore_hist (s : State) (i : Nat) (f : Core → Core) : (s.updCore i f).hist = s.hist := rfl
@[simp] theorem State.updCore_focus (s : State) (i : Nat) (f : Core → Core) : (s.updCore i f).focus = s.focus := rfl
@[simp] theorem State.updCore_inbox (s : State) (i : Nat) (f : Core → Core) : (s.updCore i f).inbox = s.inbox := rfl
@[simp] theorem State.updCore_free (s : State) (i : Nat) (f : Core → Core) : (s.updCore i f).free = s.free := rfl
@[simp] theorem State.updCore_stamp (s : State) (i : Nat) (f : Core → Core) : (s.updCore i f).stamp = s.stamp := rfl
@[simp] theorem State.updCore_nextId (s : State) (i : Nat) (f : Core → Core) : (s.updCore i f).nextId = s.nextId := rfl
@[simp] theorem State.updCore_past (s : State) (i : Nat) (f : Core → Core) : (s.updCore i f).past = s.past := rfl
@[simp] theorem State.updCore_writes (s : State) (i : Nat) (f : Core → Core) : (s.updCore i f).writes = s.writes := rfl
@[simp] theorem State.updCore_cols (s : State) (i : Nat) (f : Core → Core) : (s.updCore i f).cols = s.cols := rfl

/-! ### State.updCluster -/

@[simp] theorem State.updCluster_pkgId (s : State) (i : Nat) (f : Cluster → Cluster) : (s.updCluster i f).pkgId = s.pkgId := rfl
@[simp] theorem State.updCluster_mode (s : State) (i : Nat) (f : Cluster → Cluster) : (s.updCluster i f).mode = s.mode := rfl
@[simp] theorem State.updCluster_slate (s : State) (i : Nat) (f : Cluster → Cluster) : (s.updCluster i f).slate = s.slate := rfl
@[simp] theorem State.updCluster_g (s : State) (i : Nat) (f : Cluster → Cluster) : (s.updCluster i f).g = s.g := rfl
@[simp] theorem State.updCluster_cores (s : State) (i : Nat) (f : Cluster → Cluster) : (s.updCluster i f).cores = s.cores := rfl
@[simp] theorem State.updCluster_dies (s : State) (i : Nat) (f : Cluster → Cluster) : (s.updCluster i f).dies = s.dies := rfl
@[simp] theorem State.updCluster_regions (s : State) (i : Nat) (f : Cluster → Cluster) : (s.updCluster i f).regions = s.regions := rfl
@[simp] theorem State.updCluster_crews (s : State) (i : Nat) (f : Cluster → Cluster) : (s.updCluster i f).crews = s.crews := rfl
@[simp] theorem State.updCluster_copies (s : State) (i : Nat) (f : Cluster → Cluster) : (s.updCluster i f).copies = s.copies := rfl
@[simp] theorem State.updCluster_stepGens (s : State) (i : Nat) (f : Cluster → Cluster) : (s.updCluster i f).stepGens = s.stepGens := rfl
@[simp] theorem State.updCluster_pins (s : State) (i : Nat) (f : Cluster → Cluster) : (s.updCluster i f).pins = s.pins := rfl
@[simp] theorem State.updCluster_queues (s : State) (i : Nat) (f : Cluster → Cluster) : (s.updCluster i f).queues = s.queues := rfl
@[simp] theorem State.updCluster_events (s : State) (i : Nat) (f : Cluster → Cluster) : (s.updCluster i f).events = s.events := rfl
@[simp] theorem State.updCluster_power (s : State) (i : Nat) (f : Cluster → Cluster) : (s.updCluster i f).power = s.power := rfl
@[simp] theorem State.updCluster_fab (s : State) (i : Nat) (f : Cluster → Cluster) : (s.updCluster i f).fab = s.fab := rfl
@[simp] theorem State.updCluster_firm (s : State) (i : Nat) (f : Cluster → Cluster) : (s.updCluster i f).firm = s.firm := rfl
@[simp] theorem State.updCluster_flash (s : State) (i : Nat) (f : Cluster → Cluster) : (s.updCluster i f).flash = s.flash := rfl
@[simp] theorem State.updCluster_boot (s : State) (i : Nat) (f : Cluster → Cluster) : (s.updCluster i f).boot = s.boot := rfl
@[simp] theorem State.updCluster_dbg (s : State) (i : Nat) (f : Cluster → Cluster) : (s.updCluster i f).dbg = s.dbg := rfl
@[simp] theorem State.updCluster_hist (s : State) (i : Nat) (f : Cluster → Cluster) : (s.updCluster i f).hist = s.hist := rfl
@[simp] theorem State.updCluster_focus (s : State) (i : Nat) (f : Cluster → Cluster) : (s.updCluster i f).focus = s.focus := rfl
@[simp] theorem State.updCluster_inbox (s : State) (i : Nat) (f : Cluster → Cluster) : (s.updCluster i f).inbox = s.inbox := rfl
@[simp] theorem State.updCluster_free (s : State) (i : Nat) (f : Cluster → Cluster) : (s.updCluster i f).free = s.free := rfl
@[simp] theorem State.updCluster_stamp (s : State) (i : Nat) (f : Cluster → Cluster) : (s.updCluster i f).stamp = s.stamp := rfl
@[simp] theorem State.updCluster_nextId (s : State) (i : Nat) (f : Cluster → Cluster) : (s.updCluster i f).nextId = s.nextId := rfl
@[simp] theorem State.updCluster_past (s : State) (i : Nat) (f : Cluster → Cluster) : (s.updCluster i f).past = s.past := rfl
@[simp] theorem State.updCluster_writes (s : State) (i : Nat) (f : Cluster → Cluster) : (s.updCluster i f).writes = s.writes := rfl
@[simp] theorem State.updCluster_cols (s : State) (i : Nat) (f : Cluster → Cluster) : (s.updCluster i f).cols = s.cols := rfl

/-! ### State.updDie -/

@[simp] theorem State.updDie_pkgId (s : State) (i : Nat) (f : Die → Die) : (s.updDie i f).pkgId = s.pkgId := rfl
@[simp] theorem State.updDie_mode (s : State) (i : Nat) (f : Die → Die) : (s.updDie i f).mode = s.mode := rfl
@[simp] theorem State.updDie_slate (s : State) (i : Nat) (f : Die → Die) : (s.updDie i f).slate = s.slate := rfl
@[simp] theorem State.updDie_g (s : State) (i : Nat) (f : Die → Die) : (s.updDie i f).g = s.g := rfl
@[simp] theorem State.updDie_cores (s : State) (i : Nat) (f : Die → Die) : (s.updDie i f).cores = s.cores := rfl
@[simp] theorem State.updDie_clusters (s : State) (i : Nat) (f : Die → Die) : (s.updDie i f).clusters = s.clusters := rfl
@[simp] theorem State.updDie_regions (s : State) (i : Nat) (f : Die → Die) : (s.updDie i f).regions = s.regions := rfl
@[simp] theorem State.updDie_crews (s : State) (i : Nat) (f : Die → Die) : (s.updDie i f).crews = s.crews := rfl
@[simp] theorem State.updDie_copies (s : State) (i : Nat) (f : Die → Die) : (s.updDie i f).copies = s.copies := rfl
@[simp] theorem State.updDie_stepGens (s : State) (i : Nat) (f : Die → Die) : (s.updDie i f).stepGens = s.stepGens := rfl
@[simp] theorem State.updDie_pins (s : State) (i : Nat) (f : Die → Die) : (s.updDie i f).pins = s.pins := rfl
@[simp] theorem State.updDie_queues (s : State) (i : Nat) (f : Die → Die) : (s.updDie i f).queues = s.queues := rfl
@[simp] theorem State.updDie_events (s : State) (i : Nat) (f : Die → Die) : (s.updDie i f).events = s.events := rfl
@[simp] theorem State.updDie_power (s : State) (i : Nat) (f : Die → Die) : (s.updDie i f).power = s.power := rfl
@[simp] theorem State.updDie_fab (s : State) (i : Nat) (f : Die → Die) : (s.updDie i f).fab = s.fab := rfl
@[simp] theorem State.updDie_firm (s : State) (i : Nat) (f : Die → Die) : (s.updDie i f).firm = s.firm := rfl
@[simp] theorem State.updDie_flash (s : State) (i : Nat) (f : Die → Die) : (s.updDie i f).flash = s.flash := rfl
@[simp] theorem State.updDie_boot (s : State) (i : Nat) (f : Die → Die) : (s.updDie i f).boot = s.boot := rfl
@[simp] theorem State.updDie_dbg (s : State) (i : Nat) (f : Die → Die) : (s.updDie i f).dbg = s.dbg := rfl
@[simp] theorem State.updDie_hist (s : State) (i : Nat) (f : Die → Die) : (s.updDie i f).hist = s.hist := rfl
@[simp] theorem State.updDie_focus (s : State) (i : Nat) (f : Die → Die) : (s.updDie i f).focus = s.focus := rfl
@[simp] theorem State.updDie_inbox (s : State) (i : Nat) (f : Die → Die) : (s.updDie i f).inbox = s.inbox := rfl
@[simp] theorem State.updDie_free (s : State) (i : Nat) (f : Die → Die) : (s.updDie i f).free = s.free := rfl
@[simp] theorem State.updDie_stamp (s : State) (i : Nat) (f : Die → Die) : (s.updDie i f).stamp = s.stamp := rfl
@[simp] theorem State.updDie_nextId (s : State) (i : Nat) (f : Die → Die) : (s.updDie i f).nextId = s.nextId := rfl
@[simp] theorem State.updDie_past (s : State) (i : Nat) (f : Die → Die) : (s.updDie i f).past = s.past := rfl
@[simp] theorem State.updDie_writes (s : State) (i : Nat) (f : Die → Die) : (s.updDie i f).writes = s.writes := rfl
@[simp] theorem State.updDie_cols (s : State) (i : Nat) (f : Die → Die) : (s.updDie i f).cols = s.cols := rfl

/-! ### State.updRegion -/

@[simp] theorem State.updRegion_pkgId (s : State) (id : Nat) (f : Region → Region) : (s.updRegion id f).pkgId = s.pkgId := rfl
@[simp] theorem State.updRegion_mode (s : State) (id : Nat) (f : Region → Region) : (s.updRegion id f).mode = s.mode := rfl
@[simp] theorem State.updRegion_slate (s : State) (id : Nat) (f : Region → Region) : (s.updRegion id f).slate = s.slate := rfl
@[simp] theorem State.updRegion_g (s : State) (id : Nat) (f : Region → Region) : (s.updRegion id f).g = s.g := rfl
@[simp] theorem State.updRegion_cores (s : State) (id : Nat) (f : Region → Region) : (s.updRegion id f).cores = s.cores := rfl
@[simp] theorem State.updRegion_clusters (s : State) (id : Nat) (f : Region → Region) : (s.updRegion id f).clusters = s.clusters := rfl
@[simp] theorem State.updRegion_dies (s : State) (id : Nat) (f : Region → Region) : (s.updRegion id f).dies = s.dies := rfl
@[simp] theorem State.updRegion_crews (s : State) (id : Nat) (f : Region → Region) : (s.updRegion id f).crews = s.crews := rfl
@[simp] theorem State.updRegion_copies (s : State) (id : Nat) (f : Region → Region) : (s.updRegion id f).copies = s.copies := rfl
@[simp] theorem State.updRegion_stepGens (s : State) (id : Nat) (f : Region → Region) : (s.updRegion id f).stepGens = s.stepGens := rfl
@[simp] theorem State.updRegion_pins (s : State) (id : Nat) (f : Region → Region) : (s.updRegion id f).pins = s.pins := rfl
@[simp] theorem State.updRegion_queues (s : State) (id : Nat) (f : Region → Region) : (s.updRegion id f).queues = s.queues := rfl
@[simp] theorem State.updRegion_events (s : State) (id : Nat) (f : Region → Region) : (s.updRegion id f).events = s.events := rfl
@[simp] theorem State.updRegion_power (s : State) (id : Nat) (f : Region → Region) : (s.updRegion id f).power = s.power := rfl
@[simp] theorem State.updRegion_fab (s : State) (id : Nat) (f : Region → Region) : (s.updRegion id f).fab = s.fab := rfl
@[simp] theorem State.updRegion_firm (s : State) (id : Nat) (f : Region → Region) : (s.updRegion id f).firm = s.firm := rfl
@[simp] theorem State.updRegion_flash (s : State) (id : Nat) (f : Region → Region) : (s.updRegion id f).flash = s.flash := rfl
@[simp] theorem State.updRegion_boot (s : State) (id : Nat) (f : Region → Region) : (s.updRegion id f).boot = s.boot := rfl
@[simp] theorem State.updRegion_dbg (s : State) (id : Nat) (f : Region → Region) : (s.updRegion id f).dbg = s.dbg := rfl
@[simp] theorem State.updRegion_hist (s : State) (id : Nat) (f : Region → Region) : (s.updRegion id f).hist = s.hist := rfl
@[simp] theorem State.updRegion_focus (s : State) (id : Nat) (f : Region → Region) : (s.updRegion id f).focus = s.focus := rfl
@[simp] theorem State.updRegion_inbox (s : State) (id : Nat) (f : Region → Region) : (s.updRegion id f).inbox = s.inbox := rfl
@[simp] theorem State.updRegion_free (s : State) (id : Nat) (f : Region → Region) : (s.updRegion id f).free = s.free := rfl
@[simp] theorem State.updRegion_stamp (s : State) (id : Nat) (f : Region → Region) : (s.updRegion id f).stamp = s.stamp := rfl
@[simp] theorem State.updRegion_nextId (s : State) (id : Nat) (f : Region → Region) : (s.updRegion id f).nextId = s.nextId := rfl
@[simp] theorem State.updRegion_past (s : State) (id : Nat) (f : Region → Region) : (s.updRegion id f).past = s.past := rfl
@[simp] theorem State.updRegion_writes (s : State) (id : Nat) (f : Region → Region) : (s.updRegion id f).writes = s.writes := rfl
@[simp] theorem State.updRegion_cols (s : State) (id : Nat) (f : Region → Region) : (s.updRegion id f).cols = s.cols := rfl

/-! ### State.updQueue -/

@[simp] theorem State.updQueue_pkgId (s : State) (q : Nat) (f : Queue → Queue) : (s.updQueue q f).pkgId = s.pkgId := rfl
@[simp] theorem State.updQueue_mode (s : State) (q : Nat) (f : Queue → Queue) : (s.updQueue q f).mode = s.mode := rfl
@[simp] theorem State.updQueue_slate (s : State) (q : Nat) (f : Queue → Queue) : (s.updQueue q f).slate = s.slate := rfl
@[simp] theorem State.updQueue_g (s : State) (q : Nat) (f : Queue → Queue) : (s.updQueue q f).g = s.g := rfl
@[simp] theorem State.updQueue_cores (s : State) (q : Nat) (f : Queue → Queue) : (s.updQueue q f).cores = s.cores := rfl
@[simp] theorem State.updQueue_clusters (s : State) (q : Nat) (f : Queue → Queue) : (s.updQueue q f).clusters = s.clusters := rfl
@[simp] theorem State.updQueue_dies (s : State) (q : Nat) (f : Queue → Queue) : (s.updQueue q f).dies = s.dies := rfl
@[simp] theorem State.updQueue_regions (s : State) (q : Nat) (f : Queue → Queue) : (s.updQueue q f).regions = s.regions := rfl
@[simp] theorem State.updQueue_crews (s : State) (q : Nat) (f : Queue → Queue) : (s.updQueue q f).crews = s.crews := rfl
@[simp] theorem State.updQueue_copies (s : State) (q : Nat) (f : Queue → Queue) : (s.updQueue q f).copies = s.copies := rfl
@[simp] theorem State.updQueue_stepGens (s : State) (q : Nat) (f : Queue → Queue) : (s.updQueue q f).stepGens = s.stepGens := rfl
@[simp] theorem State.updQueue_pins (s : State) (q : Nat) (f : Queue → Queue) : (s.updQueue q f).pins = s.pins := rfl
@[simp] theorem State.updQueue_events (s : State) (q : Nat) (f : Queue → Queue) : (s.updQueue q f).events = s.events := rfl
@[simp] theorem State.updQueue_power (s : State) (q : Nat) (f : Queue → Queue) : (s.updQueue q f).power = s.power := rfl
@[simp] theorem State.updQueue_fab (s : State) (q : Nat) (f : Queue → Queue) : (s.updQueue q f).fab = s.fab := rfl
@[simp] theorem State.updQueue_firm (s : State) (q : Nat) (f : Queue → Queue) : (s.updQueue q f).firm = s.firm := rfl
@[simp] theorem State.updQueue_flash (s : State) (q : Nat) (f : Queue → Queue) : (s.updQueue q f).flash = s.flash := rfl
@[simp] theorem State.updQueue_boot (s : State) (q : Nat) (f : Queue → Queue) : (s.updQueue q f).boot = s.boot := rfl
@[simp] theorem State.updQueue_dbg (s : State) (q : Nat) (f : Queue → Queue) : (s.updQueue q f).dbg = s.dbg := rfl
@[simp] theorem State.updQueue_hist (s : State) (q : Nat) (f : Queue → Queue) : (s.updQueue q f).hist = s.hist := rfl
@[simp] theorem State.updQueue_focus (s : State) (q : Nat) (f : Queue → Queue) : (s.updQueue q f).focus = s.focus := rfl
@[simp] theorem State.updQueue_inbox (s : State) (q : Nat) (f : Queue → Queue) : (s.updQueue q f).inbox = s.inbox := rfl
@[simp] theorem State.updQueue_free (s : State) (q : Nat) (f : Queue → Queue) : (s.updQueue q f).free = s.free := rfl
@[simp] theorem State.updQueue_stamp (s : State) (q : Nat) (f : Queue → Queue) : (s.updQueue q f).stamp = s.stamp := rfl
@[simp] theorem State.updQueue_nextId (s : State) (q : Nat) (f : Queue → Queue) : (s.updQueue q f).nextId = s.nextId := rfl
@[simp] theorem State.updQueue_past (s : State) (q : Nat) (f : Queue → Queue) : (s.updQueue q f).past = s.past := rfl
@[simp] theorem State.updQueue_writes (s : State) (q : Nat) (f : Queue → Queue) : (s.updQueue q f).writes = s.writes := rfl
@[simp] theorem State.updQueue_cols (s : State) (q : Nat) (f : Queue → Queue) : (s.updQueue q f).cols = s.cols := rfl

/-! ### State.updPort -/

@[simp] theorem State.updPort_pkgId (s : State) (p : Nat) (f : Port → Port) : (s.updPort p f).pkgId = s.pkgId := rfl
@[simp] theorem State.updPort_mode (s : State) (p : Nat) (f : Port → Port) : (s.updPort p f).mode = s.mode := rfl
@[simp] theorem State.updPort_slate (s : State) (p : Nat) (f : Port → Port) : (s.updPort p f).slate = s.slate := rfl
@[simp] theorem State.updPort_g (s : State) (p : Nat) (f : Port → Port) : (s.updPort p f).g = s.g := rfl
@[simp] theorem State.updPort_cores (s : State) (p : Nat) (f : Port → Port) : (s.updPort p f).cores = s.cores := rfl
@[simp] theorem State.updPort_clusters (s : State) (p : Nat) (f : Port → Port) : (s.updPort p f).clusters = s.clusters := rfl
@[simp] theorem State.updPort_dies (s : State) (p : Nat) (f : Port → Port) : (s.updPort p f).dies = s.dies := rfl
@[simp] theorem State.updPort_regions (s : State) (p : Nat) (f : Port → Port) : (s.updPort p f).regions = s.regions := rfl
@[simp] theorem State.updPort_crews (s : State) (p : Nat) (f : Port → Port) : (s.updPort p f).crews = s.crews := rfl
@[simp] theorem State.updPort_copies (s : State) (p : Nat) (f : Port → Port) : (s.updPort p f).copies = s.copies := rfl
@[simp] theorem State.updPort_stepGens (s : State) (p : Nat) (f : Port → Port) : (s.updPort p f).stepGens = s.stepGens := rfl
@[simp] theorem State.updPort_pins (s : State) (p : Nat) (f : Port → Port) : (s.updPort p f).pins = s.pins := rfl
@[simp] theorem State.updPort_queues (s : State) (p : Nat) (f : Port → Port) : (s.updPort p f).queues = s.queues := rfl
@[simp] theorem State.updPort_events (s : State) (p : Nat) (f : Port → Port) : (s.updPort p f).events = s.events := rfl
@[simp] theorem State.updPort_power (s : State) (p : Nat) (f : Port → Port) : (s.updPort p f).power = s.power := rfl
@[simp] theorem State.updPort_firm (s : State) (p : Nat) (f : Port → Port) : (s.updPort p f).firm = s.firm := rfl
@[simp] theorem State.updPort_flash (s : State) (p : Nat) (f : Port → Port) : (s.updPort p f).flash = s.flash := rfl
@[simp] theorem State.updPort_boot (s : State) (p : Nat) (f : Port → Port) : (s.updPort p f).boot = s.boot := rfl
@[simp] theorem State.updPort_dbg (s : State) (p : Nat) (f : Port → Port) : (s.updPort p f).dbg = s.dbg := rfl
@[simp] theorem State.updPort_hist (s : State) (p : Nat) (f : Port → Port) : (s.updPort p f).hist = s.hist := rfl
@[simp] theorem State.updPort_focus (s : State) (p : Nat) (f : Port → Port) : (s.updPort p f).focus = s.focus := rfl
@[simp] theorem State.updPort_inbox (s : State) (p : Nat) (f : Port → Port) : (s.updPort p f).inbox = s.inbox := rfl
@[simp] theorem State.updPort_free (s : State) (p : Nat) (f : Port → Port) : (s.updPort p f).free = s.free := rfl
@[simp] theorem State.updPort_stamp (s : State) (p : Nat) (f : Port → Port) : (s.updPort p f).stamp = s.stamp := rfl
@[simp] theorem State.updPort_nextId (s : State) (p : Nat) (f : Port → Port) : (s.updPort p f).nextId = s.nextId := rfl
@[simp] theorem State.updPort_past (s : State) (p : Nat) (f : Port → Port) : (s.updPort p f).past = s.past := rfl
@[simp] theorem State.updPort_writes (s : State) (p : Nat) (f : Port → Port) : (s.updPort p f).writes = s.writes := rfl
@[simp] theorem State.updPort_cols (s : State) (p : Nat) (f : Port → Port) : (s.updPort p f).cols = s.cols := rfl

/-! ### State.updCopy -/

@[simp] theorem State.updCopy_pkgId (s : State) (id : Nat) (f : Copy → Copy) : (s.updCopy id f).pkgId = s.pkgId := rfl
@[simp] theorem State.updCopy_mode (s : State) (id : Nat) (f : Copy → Copy) : (s.updCopy id f).mode = s.mode := rfl
@[simp] theorem State.updCopy_slate (s : State) (id : Nat) (f : Copy → Copy) : (s.updCopy id f).slate = s.slate := rfl
@[simp] theorem State.updCopy_g (s : State) (id : Nat) (f : Copy → Copy) : (s.updCopy id f).g = s.g := rfl
@[simp] theorem State.updCopy_cores (s : State) (id : Nat) (f : Copy → Copy) : (s.updCopy id f).cores = s.cores := rfl
@[simp] theorem State.updCopy_clusters (s : State) (id : Nat) (f : Copy → Copy) : (s.updCopy id f).clusters = s.clusters := rfl
@[simp] theorem State.updCopy_dies (s : State) (id : Nat) (f : Copy → Copy) : (s.updCopy id f).dies = s.dies := rfl
@[simp] theorem State.updCopy_regions (s : State) (id : Nat) (f : Copy → Copy) : (s.updCopy id f).regions = s.regions := rfl
@[simp] theorem State.updCopy_crews (s : State) (id : Nat) (f : Copy → Copy) : (s.updCopy id f).crews = s.crews := rfl
@[simp] theorem State.updCopy_stepGens (s : State) (id : Nat) (f : Copy → Copy) : (s.updCopy id f).stepGens = s.stepGens := rfl
@[simp] theorem State.updCopy_pins (s : State) (id : Nat) (f : Copy → Copy) : (s.updCopy id f).pins = s.pins := rfl
@[simp] theorem State.updCopy_queues (s : State) (id : Nat) (f : Copy → Copy) : (s.updCopy id f).queues = s.queues := rfl
@[simp] theorem State.updCopy_events (s : State) (id : Nat) (f : Copy → Copy) : (s.updCopy id f).events = s.events := rfl
@[simp] theorem State.updCopy_power (s : State) (id : Nat) (f : Copy → Copy) : (s.updCopy id f).power = s.power := rfl
@[simp] theorem State.updCopy_fab (s : State) (id : Nat) (f : Copy → Copy) : (s.updCopy id f).fab = s.fab := rfl
@[simp] theorem State.updCopy_firm (s : State) (id : Nat) (f : Copy → Copy) : (s.updCopy id f).firm = s.firm := rfl
@[simp] theorem State.updCopy_flash (s : State) (id : Nat) (f : Copy → Copy) : (s.updCopy id f).flash = s.flash := rfl
@[simp] theorem State.updCopy_boot (s : State) (id : Nat) (f : Copy → Copy) : (s.updCopy id f).boot = s.boot := rfl
@[simp] theorem State.updCopy_dbg (s : State) (id : Nat) (f : Copy → Copy) : (s.updCopy id f).dbg = s.dbg := rfl
@[simp] theorem State.updCopy_hist (s : State) (id : Nat) (f : Copy → Copy) : (s.updCopy id f).hist = s.hist := rfl
@[simp] theorem State.updCopy_focus (s : State) (id : Nat) (f : Copy → Copy) : (s.updCopy id f).focus = s.focus := rfl
@[simp] theorem State.updCopy_inbox (s : State) (id : Nat) (f : Copy → Copy) : (s.updCopy id f).inbox = s.inbox := rfl
@[simp] theorem State.updCopy_free (s : State) (id : Nat) (f : Copy → Copy) : (s.updCopy id f).free = s.free := rfl
@[simp] theorem State.updCopy_stamp (s : State) (id : Nat) (f : Copy → Copy) : (s.updCopy id f).stamp = s.stamp := rfl
@[simp] theorem State.updCopy_nextId (s : State) (id : Nat) (f : Copy → Copy) : (s.updCopy id f).nextId = s.nextId := rfl
@[simp] theorem State.updCopy_past (s : State) (id : Nat) (f : Copy → Copy) : (s.updCopy id f).past = s.past := rfl
@[simp] theorem State.updCopy_writes (s : State) (id : Nat) (f : Copy → Copy) : (s.updCopy id f).writes = s.writes := rfl
@[simp] theorem State.updCopy_cols (s : State) (id : Nat) (f : Copy → Copy) : (s.updCopy id f).cols = s.cols := rfl

/-! ### State.post -/

@[simp] theorem State.post_pkgId (s : State) (i : Instr) : (s.post i).pkgId = s.pkgId := rfl
@[simp] theorem State.post_mode (s : State) (i : Instr) : (s.post i).mode = s.mode := rfl
@[simp] theorem State.post_slate (s : State) (i : Instr) : (s.post i).slate = s.slate := rfl
@[simp] theorem State.post_g (s : State) (i : Instr) : (s.post i).g = s.g := rfl
@[simp] theorem State.post_cores (s : State) (i : Instr) : (s.post i).cores = s.cores := rfl
@[simp] theorem State.post_clusters (s : State) (i : Instr) : (s.post i).clusters = s.clusters := rfl
@[simp] theorem State.post_dies (s : State) (i : Instr) : (s.post i).dies = s.dies := rfl
@[simp] theorem State.post_regions (s : State) (i : Instr) : (s.post i).regions = s.regions := rfl
@[simp] theorem State.post_crews (s : State) (i : Instr) : (s.post i).crews = s.crews := rfl
@[simp] theorem State.post_copies (s : State) (i : Instr) : (s.post i).copies = s.copies := rfl
@[simp] theorem State.post_stepGens (s : State) (i : Instr) : (s.post i).stepGens = s.stepGens := rfl
@[simp] theorem State.post_pins (s : State) (i : Instr) : (s.post i).pins = s.pins := rfl
@[simp] theorem State.post_queues (s : State) (i : Instr) : (s.post i).queues = s.queues := rfl
@[simp] theorem State.post_events (s : State) (i : Instr) : (s.post i).events = s.events := rfl
@[simp] theorem State.post_power (s : State) (i : Instr) : (s.post i).power = s.power := rfl
@[simp] theorem State.post_fab (s : State) (i : Instr) : (s.post i).fab = s.fab := rfl
@[simp] theorem State.post_firm (s : State) (i : Instr) : (s.post i).firm = s.firm := rfl
@[simp] theorem State.post_flash (s : State) (i : Instr) : (s.post i).flash = s.flash := rfl
@[simp] theorem State.post_boot (s : State) (i : Instr) : (s.post i).boot = s.boot := rfl
@[simp] theorem State.post_dbg (s : State) (i : Instr) : (s.post i).dbg = s.dbg := rfl
@[simp] theorem State.post_hist (s : State) (i : Instr) : (s.post i).hist = s.hist := rfl
@[simp] theorem State.post_focus (s : State) (i : Instr) : (s.post i).focus = s.focus := rfl
@[simp] theorem State.post_free (s : State) (i : Instr) : (s.post i).free = s.free := rfl
@[simp] theorem State.post_stamp (s : State) (i : Instr) : (s.post i).stamp = s.stamp := rfl
@[simp] theorem State.post_nextId (s : State) (i : Instr) : (s.post i).nextId = s.nextId := rfl
@[simp] theorem State.post_past (s : State) (i : Instr) : (s.post i).past = s.past := rfl
@[simp] theorem State.post_writes (s : State) (i : Instr) : (s.post i).writes = s.writes := rfl
@[simp] theorem State.post_cols (s : State) (i : Instr) : (s.post i).cols = s.cols := rfl

/-! ### State.counted -/

@[simp] theorem State.counted_pkgId (s : State) : (s.counted).pkgId = s.pkgId := rfl
@[simp] theorem State.counted_mode (s : State) : (s.counted).mode = s.mode := rfl
@[simp] theorem State.counted_slate (s : State) : (s.counted).slate = s.slate := rfl
@[simp] theorem State.counted_g (s : State) : (s.counted).g = s.g := rfl
@[simp] theorem State.counted_cores (s : State) : (s.counted).cores = s.cores := rfl
@[simp] theorem State.counted_clusters (s : State) : (s.counted).clusters = s.clusters := rfl
@[simp] theorem State.counted_dies (s : State) : (s.counted).dies = s.dies := rfl
@[simp] theorem State.counted_regions (s : State) : (s.counted).regions = s.regions := rfl
@[simp] theorem State.counted_crews (s : State) : (s.counted).crews = s.crews := rfl
@[simp] theorem State.counted_copies (s : State) : (s.counted).copies = s.copies := rfl
@[simp] theorem State.counted_stepGens (s : State) : (s.counted).stepGens = s.stepGens := rfl
@[simp] theorem State.counted_pins (s : State) : (s.counted).pins = s.pins := rfl
@[simp] theorem State.counted_queues (s : State) : (s.counted).queues = s.queues := rfl
@[simp] theorem State.counted_events (s : State) : (s.counted).events = s.events := rfl
@[simp] theorem State.counted_power (s : State) : (s.counted).power = s.power := rfl
@[simp] theorem State.counted_fab (s : State) : (s.counted).fab = s.fab := rfl
@[simp] theorem State.counted_firm (s : State) : (s.counted).firm = s.firm := rfl
@[simp] theorem State.counted_flash (s : State) : (s.counted).flash = s.flash := rfl
@[simp] theorem State.counted_boot (s : State) : (s.counted).boot = s.boot := rfl
@[simp] theorem State.counted_dbg (s : State) : (s.counted).dbg = s.dbg := rfl
@[simp] theorem State.counted_hist (s : State) : (s.counted).hist = s.hist := rfl
@[simp] theorem State.counted_focus (s : State) : (s.counted).focus = s.focus := rfl
@[simp] theorem State.counted_inbox (s : State) : (s.counted).inbox = s.inbox := rfl
@[simp] theorem State.counted_stamp (s : State) : (s.counted).stamp = s.stamp := rfl
@[simp] theorem State.counted_nextId (s : State) : (s.counted).nextId = s.nextId := rfl
@[simp] theorem State.counted_past (s : State) : (s.counted).past = s.past := rfl
@[simp] theorem State.counted_writes (s : State) : (s.counted).writes = s.writes := rfl
@[simp] theorem State.counted_cols (s : State) : (s.counted).cols = s.cols := rfl

/-! ### Updates of a crew -/

@[simp] theorem Crew.wtag_id (c : Crew) (n : Nat) (v : BitVec 32) : (c.wtag n v).id = c.id := rfl
@[simp] theorem Crew.wtag_region (c : Crew) (n : Nat) (v : BitVec 32) : (c.wtag n v).region = c.region := rfl
@[simp] theorem Crew.wtag_core (c : Crew) (n : Nat) (v : BitVec 32) : (c.wtag n v).core = c.core := rfl
@[simp] theorem Crew.wtag_quad (c : Crew) (n : Nat) (v : BitVec 32) : (c.wtag n v).quad = c.quad := rfl
@[simp] theorem Crew.wtag_slot (c : Crew) (n : Nat) (v : BitVec 32) : (c.wtag n v).slot = c.slot := rfl
@[simp] theorem Crew.wtag_unit (c : Crew) (n : Nat) (v : BitVec 32) : (c.wtag n v).unit = c.unit := rfl
@[simp] theorem Crew.wtag_state (c : Crew) (n : Nat) (v : BitVec 32) : (c.wtag n v).state = c.state := rfl
@[simp] theorem Crew.wtag_since (c : Crew) (n : Nat) (v : BitVec 32) : (c.wtag n v).since = c.since := rfl
@[simp] theorem Crew.wtag_started (c : Crew) (n : Nat) (v : BitVec 32) : (c.wtag n v).started = c.started := rfl
@[simp] theorem Crew.wtag_parent (c : Crew) (n : Nat) (v : BitVec 32) : (c.wtag n v).parent = c.parent := rfl
@[simp] theorem Crew.wtag_live (c : Crew) (n : Nat) (v : BitVec 32) : (c.wtag n v).live = c.live := rfl
@[simp] theorem Crew.wtag_paths (c : Crew) (n : Nat) (v : BitVec 32) : (c.wtag n v).paths = c.paths := rfl
@[simp] theorem Crew.wtag_s (c : Crew) (n : Nat) (v : BitVec 32) : (c.wtag n v).s = c.s := rfl
@[simp] theorem Crew.wtag_k (c : Crew) (n : Nat) (v : BitVec 32) : (c.wtag n v).k = c.k := rfl
@[simp] theorem Crew.wtag_urs (c : Crew) (n : Nat) (v : BitVec 32) : (c.wtag n v).urs = c.urs := rfl
@[simp] theorem Crew.wtag_win (c : Crew) (n : Nat) (v : BitVec 32) : (c.wtag n v).win = c.win := rfl
@[simp] theorem Crew.wtag_views (c : Crew) (n : Nat) (v : BitVec 32) : (c.wtag n v).views = c.views := rfl
@[simp] theorem Crew.wtag_sys (c : Crew) (n : Nat) (v : BitVec 32) : (c.wtag n v).sys = c.sys := rfl
@[simp] theorem Crew.wtag_acc (c : Crew) (n : Nat) (v : BitVec 32) : (c.wtag n v).acc = c.acc := rfl
@[simp] theorem Crew.wtag_children (c : Crew) (n : Nat) (v : BitVec 32) : (c.wtag n v).children = c.children := rfl
@[simp] theorem Crew.wtag_reserve (c : Crew) (n : Nat) (v : BitVec 32) : (c.wtag n v).reserve = c.reserve := rfl
@[simp] theorem Crew.wtag_handler (c : Crew) (n : Nat) (v : BitVec 32) : (c.wtag n v).handler = c.handler := rfl
@[simp] theorem Crew.wtag_lastRec (c : Crew) (n : Nat) (v : BitVec 32) : (c.wtag n v).lastRec = c.lastRec := rfl
@[simp] theorem Crew.wtag_batches (c : Crew) (n : Nat) (v : BitVec 32) : (c.wtag n v).batches = c.batches := rfl
@[simp] theorem Crew.wtag_arrivals (c : Crew) (n : Nat) (v : BitVec 32) : (c.wtag n v).arrivals = c.arrivals := rfl
@[simp] theorem Crew.wtag_stepped (c : Crew) (n : Nat) (v : BitVec 32) : (c.wtag n v).stepped = c.stepped := rfl
@[simp] theorem Crew.wtag_area (c : Crew) (n : Nat) (v : BitVec 32) : (c.wtag n v).area = c.area := rfl

@[simp] theorem Crew.wside_id (c : Crew) (n : Nat) (v : AccSide) : (c.wside n v).id = c.id := rfl
@[simp] theorem Crew.wside_region (c : Crew) (n : Nat) (v : AccSide) : (c.wside n v).region = c.region := rfl
@[simp] theorem Crew.wside_core (c : Crew) (n : Nat) (v : AccSide) : (c.wside n v).core = c.core := rfl
@[simp] theorem Crew.wside_quad (c : Crew) (n : Nat) (v : AccSide) : (c.wside n v).quad = c.quad := rfl
@[simp] theorem Crew.wside_slot (c : Crew) (n : Nat) (v : AccSide) : (c.wside n v).slot = c.slot := rfl
@[simp] theorem Crew.wside_unit (c : Crew) (n : Nat) (v : AccSide) : (c.wside n v).unit = c.unit := rfl
@[simp] theorem Crew.wside_state (c : Crew) (n : Nat) (v : AccSide) : (c.wside n v).state = c.state := rfl
@[simp] theorem Crew.wside_since (c : Crew) (n : Nat) (v : AccSide) : (c.wside n v).since = c.since := rfl
@[simp] theorem Crew.wside_started (c : Crew) (n : Nat) (v : AccSide) : (c.wside n v).started = c.started := rfl
@[simp] theorem Crew.wside_parent (c : Crew) (n : Nat) (v : AccSide) : (c.wside n v).parent = c.parent := rfl
@[simp] theorem Crew.wside_live (c : Crew) (n : Nat) (v : AccSide) : (c.wside n v).live = c.live := rfl
@[simp] theorem Crew.wside_paths (c : Crew) (n : Nat) (v : AccSide) : (c.wside n v).paths = c.paths := rfl
@[simp] theorem Crew.wside_s (c : Crew) (n : Nat) (v : AccSide) : (c.wside n v).s = c.s := rfl
@[simp] theorem Crew.wside_k (c : Crew) (n : Nat) (v : AccSide) : (c.wside n v).k = c.k := rfl
@[simp] theorem Crew.wside_urs (c : Crew) (n : Nat) (v : AccSide) : (c.wside n v).urs = c.urs := rfl
@[simp] theorem Crew.wside_win (c : Crew) (n : Nat) (v : AccSide) : (c.wside n v).win = c.win := rfl
@[simp] theorem Crew.wside_views (c : Crew) (n : Nat) (v : AccSide) : (c.wside n v).views = c.views := rfl
@[simp] theorem Crew.wside_sys (c : Crew) (n : Nat) (v : AccSide) : (c.wside n v).sys = c.sys := rfl
@[simp] theorem Crew.wside_tags (c : Crew) (n : Nat) (v : AccSide) : (c.wside n v).tags = c.tags := rfl
@[simp] theorem Crew.wside_children (c : Crew) (n : Nat) (v : AccSide) : (c.wside n v).children = c.children := rfl
@[simp] theorem Crew.wside_reserve (c : Crew) (n : Nat) (v : AccSide) : (c.wside n v).reserve = c.reserve := rfl
@[simp] theorem Crew.wside_handler (c : Crew) (n : Nat) (v : AccSide) : (c.wside n v).handler = c.handler := rfl
@[simp] theorem Crew.wside_lastRec (c : Crew) (n : Nat) (v : AccSide) : (c.wside n v).lastRec = c.lastRec := rfl
@[simp] theorem Crew.wside_batches (c : Crew) (n : Nat) (v : AccSide) : (c.wside n v).batches = c.batches := rfl
@[simp] theorem Crew.wside_arrivals (c : Crew) (n : Nat) (v : AccSide) : (c.wside n v).arrivals = c.arrivals := rfl
@[simp] theorem Crew.wside_stepped (c : Crew) (n : Nat) (v : AccSide) : (c.wside n v).stepped = c.stepped := rfl
@[simp] theorem Crew.wside_area (c : Crew) (n : Nat) (v : AccSide) : (c.wside n v).area = c.area := rfl

@[simp] theorem Crew.wrBytes_id (c : Crew) (k : Kind) (num j : Nat) (b : List Byte) : (c.wrBytes k num j b).id = c.id := rfl
@[simp] theorem Crew.wrBytes_region (c : Crew) (k : Kind) (num j : Nat) (b : List Byte) : (c.wrBytes k num j b).region = c.region := rfl
@[simp] theorem Crew.wrBytes_core (c : Crew) (k : Kind) (num j : Nat) (b : List Byte) : (c.wrBytes k num j b).core = c.core := rfl
@[simp] theorem Crew.wrBytes_quad (c : Crew) (k : Kind) (num j : Nat) (b : List Byte) : (c.wrBytes k num j b).quad = c.quad := rfl
@[simp] theorem Crew.wrBytes_slot (c : Crew) (k : Kind) (num j : Nat) (b : List Byte) : (c.wrBytes k num j b).slot = c.slot := rfl
@[simp] theorem Crew.wrBytes_unit (c : Crew) (k : Kind) (num j : Nat) (b : List Byte) : (c.wrBytes k num j b).unit = c.unit := rfl
@[simp] theorem Crew.wrBytes_state (c : Crew) (k : Kind) (num j : Nat) (b : List Byte) : (c.wrBytes k num j b).state = c.state := rfl
@[simp] theorem Crew.wrBytes_since (c : Crew) (k : Kind) (num j : Nat) (b : List Byte) : (c.wrBytes k num j b).since = c.since := rfl
@[simp] theorem Crew.wrBytes_started (c : Crew) (k : Kind) (num j : Nat) (b : List Byte) : (c.wrBytes k num j b).started = c.started := rfl
@[simp] theorem Crew.wrBytes_parent (c : Crew) (k : Kind) (num j : Nat) (b : List Byte) : (c.wrBytes k num j b).parent = c.parent := rfl
@[simp] theorem Crew.wrBytes_live (c : Crew) (k : Kind) (num j : Nat) (b : List Byte) : (c.wrBytes k num j b).live = c.live := rfl
@[simp] theorem Crew.wrBytes_paths (c : Crew) (k : Kind) (num j : Nat) (b : List Byte) : (c.wrBytes k num j b).paths = c.paths := rfl
@[simp] theorem Crew.wrBytes_s (c : Crew) (k : Kind) (num j : Nat) (b : List Byte) : (c.wrBytes k num j b).s = c.s := rfl
@[simp] theorem Crew.wrBytes_k (c : Crew) (k : Kind) (num j : Nat) (b : List Byte) : (c.wrBytes k num j b).k = c.k := rfl
@[simp] theorem Crew.wrBytes_win (c : Crew) (k : Kind) (num j : Nat) (b : List Byte) : (c.wrBytes k num j b).win = c.win := rfl
@[simp] theorem Crew.wrBytes_views (c : Crew) (k : Kind) (num j : Nat) (b : List Byte) : (c.wrBytes k num j b).views = c.views := rfl
@[simp] theorem Crew.wrBytes_sys (c : Crew) (k : Kind) (num j : Nat) (b : List Byte) : (c.wrBytes k num j b).sys = c.sys := rfl
@[simp] theorem Crew.wrBytes_tags (c : Crew) (k : Kind) (num j : Nat) (b : List Byte) : (c.wrBytes k num j b).tags = c.tags := rfl
@[simp] theorem Crew.wrBytes_acc (c : Crew) (k : Kind) (num j : Nat) (b : List Byte) : (c.wrBytes k num j b).acc = c.acc := rfl
@[simp] theorem Crew.wrBytes_children (c : Crew) (k : Kind) (num j : Nat) (b : List Byte) : (c.wrBytes k num j b).children = c.children := rfl
@[simp] theorem Crew.wrBytes_reserve (c : Crew) (k : Kind) (num j : Nat) (b : List Byte) : (c.wrBytes k num j b).reserve = c.reserve := rfl
@[simp] theorem Crew.wrBytes_handler (c : Crew) (k : Kind) (num j : Nat) (b : List Byte) : (c.wrBytes k num j b).handler = c.handler := rfl
@[simp] theorem Crew.wrBytes_lastRec (c : Crew) (k : Kind) (num j : Nat) (b : List Byte) : (c.wrBytes k num j b).lastRec = c.lastRec := rfl
@[simp] theorem Crew.wrBytes_batches (c : Crew) (k : Kind) (num j : Nat) (b : List Byte) : (c.wrBytes k num j b).batches = c.batches := rfl
@[simp] theorem Crew.wrBytes_arrivals (c : Crew) (k : Kind) (num j : Nat) (b : List Byte) : (c.wrBytes k num j b).arrivals = c.arrivals := rfl
@[simp] theorem Crew.wrBytes_stepped (c : Crew) (k : Kind) (num j : Nat) (b : List Byte) : (c.wrBytes k num j b).stepped = c.stepped := rfl
@[simp] theorem Crew.wrBytes_area (c : Crew) (k : Kind) (num j : Nat) (b : List Byte) : (c.wrBytes k num j b).area = c.area := rfl

@[simp] theorem Crew.raise_id (c : Crew) (f : BitVec 5) : (c.raise f).id = c.id := rfl
@[simp] theorem Crew.raise_region (c : Crew) (f : BitVec 5) : (c.raise f).region = c.region := rfl
@[simp] theorem Crew.raise_core (c : Crew) (f : BitVec 5) : (c.raise f).core = c.core := rfl
@[simp] theorem Crew.raise_quad (c : Crew) (f : BitVec 5) : (c.raise f).quad = c.quad := rfl
@[simp] theorem Crew.raise_slot (c : Crew) (f : BitVec 5) : (c.raise f).slot = c.slot := rfl
@[simp] theorem Crew.raise_unit (c : Crew) (f : BitVec 5) : (c.raise f).unit = c.unit := rfl
@[simp] theorem Crew.raise_state (c : Crew) (f : BitVec 5) : (c.raise f).state = c.state := rfl
@[simp] theorem Crew.raise_since (c : Crew) (f : BitVec 5) : (c.raise f).since = c.since := rfl
@[simp] theorem Crew.raise_started (c : Crew) (f : BitVec 5) : (c.raise f).started = c.started := rfl
@[simp] theorem Crew.raise_parent (c : Crew) (f : BitVec 5) : (c.raise f).parent = c.parent := rfl
@[simp] theorem Crew.raise_live (c : Crew) (f : BitVec 5) : (c.raise f).live = c.live := rfl
@[simp] theorem Crew.raise_paths (c : Crew) (f : BitVec 5) : (c.raise f).paths = c.paths := rfl
@[simp] theorem Crew.raise_s (c : Crew) (f : BitVec 5) : (c.raise f).s = c.s := rfl
@[simp] theorem Crew.raise_k (c : Crew) (f : BitVec 5) : (c.raise f).k = c.k := rfl
@[simp] theorem Crew.raise_urs (c : Crew) (f : BitVec 5) : (c.raise f).urs = c.urs := rfl
@[simp] theorem Crew.raise_win (c : Crew) (f : BitVec 5) : (c.raise f).win = c.win := rfl
@[simp] theorem Crew.raise_views (c : Crew) (f : BitVec 5) : (c.raise f).views = c.views := rfl
@[simp] theorem Crew.raise_tags (c : Crew) (f : BitVec 5) : (c.raise f).tags = c.tags := rfl
@[simp] theorem Crew.raise_acc (c : Crew) (f : BitVec 5) : (c.raise f).acc = c.acc := rfl
@[simp] theorem Crew.raise_children (c : Crew) (f : BitVec 5) : (c.raise f).children = c.children := rfl
@[simp] theorem Crew.raise_reserve (c : Crew) (f : BitVec 5) : (c.raise f).reserve = c.reserve := rfl
@[simp] theorem Crew.raise_handler (c : Crew) (f : BitVec 5) : (c.raise f).handler = c.handler := rfl
@[simp] theorem Crew.raise_lastRec (c : Crew) (f : BitVec 5) : (c.raise f).lastRec = c.lastRec := rfl
@[simp] theorem Crew.raise_batches (c : Crew) (f : BitVec 5) : (c.raise f).batches = c.batches := rfl
@[simp] theorem Crew.raise_arrivals (c : Crew) (f : BitVec 5) : (c.raise f).arrivals = c.arrivals := rfl
@[simp] theorem Crew.raise_stepped (c : Crew) (f : BitVec 5) : (c.raise f).stepped = c.stepped := rfl
@[simp] theorem Crew.raise_area (c : Crew) (f : BitVec 5) : (c.raise f).area = c.area := rfl

@[simp] theorem Crew.ws_id (c : Crew) (n : Nat) (v : Word) : (c.ws n v).id = c.id := by
  unfold Crew.ws; split <;> rfl
@[simp] theorem Crew.ws_region (c : Crew) (n : Nat) (v : Word) : (c.ws n v).region = c.region := by
  unfold Crew.ws; split <;> rfl
@[simp] theorem Crew.ws_core (c : Crew) (n : Nat) (v : Word) : (c.ws n v).core = c.core := by
  unfold Crew.ws; split <;> rfl
@[simp] theorem Crew.ws_quad (c : Crew) (n : Nat) (v : Word) : (c.ws n v).quad = c.quad := by
  unfold Crew.ws; split <;> rfl
@[simp] theorem Crew.ws_slot (c : Crew) (n : Nat) (v : Word) : (c.ws n v).slot = c.slot := by
  unfold Crew.ws; split <;> rfl
@[simp] theorem Crew.ws_unit (c : Crew) (n : Nat) (v : Word) : (c.ws n v).unit = c.unit := by
  unfold Crew.ws; split <;> rfl
@[simp] theorem Crew.ws_state (c : Crew) (n : Nat) (v : Word) : (c.ws n v).state = c.state := by
  unfold Crew.ws; split <;> rfl
@[simp] theorem Crew.ws_since (c : Crew) (n : Nat) (v : Word) : (c.ws n v).since = c.since := by
  unfold Crew.ws; split <;> rfl
@[simp] theorem Crew.ws_started (c : Crew) (n : Nat) (v : Word) : (c.ws n v).started = c.started := by
  unfold Crew.ws; split <;> rfl
@[simp] theorem Crew.ws_parent (c : Crew) (n : Nat) (v : Word) : (c.ws n v).parent = c.parent := by
  unfold Crew.ws; split <;> rfl
@[simp] theorem Crew.ws_live (c : Crew) (n : Nat) (v : Word) : (c.ws n v).live = c.live := by
  unfold Crew.ws; split <;> rfl
@[simp] theorem Crew.ws_paths (c : Crew) (n : Nat) (v : Word) : (c.ws n v).paths = c.paths := by
  unfold Crew.ws; split <;> rfl
@[simp] theorem Crew.ws_k (c : Crew) (n : Nat) (v : Word) : (c.ws n v).k = c.k := by
  unfold Crew.ws; split <;> rfl
@[simp] theorem Crew.ws_urs (c : Crew) (n : Nat) (v : Word) : (c.ws n v).urs = c.urs := by
  unfold Crew.ws; split <;> rfl
@[simp] theorem Crew.ws_win (c : Crew) (n : Nat) (v : Word) : (c.ws n v).win = c.win := by
  unfold Crew.ws; split <;> rfl
@[simp] theorem Crew.ws_views (c : Crew) (n : Nat) (v : Word) : (c.ws n v).views = c.views := by
  unfold Crew.ws; split <;> rfl
@[simp] theorem Crew.ws_sys (c : Crew) (n : Nat) (v : Word) : (c.ws n v).sys = c.sys := by
  unfold Crew.ws; split <;> rfl
@[simp] theorem Crew.ws_tags (c : Crew) (n : Nat) (v : Word) : (c.ws n v).tags = c.tags := by
  unfold Crew.ws; split <;> rfl
@[simp] theorem Crew.ws_acc (c : Crew) (n : Nat) (v : Word) : (c.ws n v).acc = c.acc := by
  unfold Crew.ws; split <;> rfl
@[simp] theorem Crew.ws_children (c : Crew) (n : Nat) (v : Word) : (c.ws n v).children = c.children := by
  unfold Crew.ws; split <;> rfl
@[simp] theorem Crew.ws_reserve (c : Crew) (n : Nat) (v : Word) : (c.ws n v).reserve = c.reserve := by
  unfold Crew.ws; split <;> rfl
@[simp] theorem Crew.ws_handler (c : Crew) (n : Nat) (v : Word) : (c.ws n v).handler = c.handler := by
  unfold Crew.ws; split <;> rfl
@[simp] theorem Crew.ws_lastRec (c : Crew) (n : Nat) (v : Word) : (c.ws n v).lastRec = c.lastRec := by
  unfold Crew.ws; split <;> rfl
@[simp] theorem Crew.ws_batches (c : Crew) (n : Nat) (v : Word) : (c.ws n v).batches = c.batches := by
  unfold Crew.ws; split <;> rfl
@[simp] theorem Crew.ws_arrivals (c : Crew) (n : Nat) (v : Word) : (c.ws n v).arrivals = c.arrivals := by
  unfold Crew.ws; split <;> rfl
@[simp] theorem Crew.ws_stepped (c : Crew) (n : Nat) (v : Word) : (c.ws n v).stepped = c.stepped := by
  unfold Crew.ws; split <;> rfl
@[simp] theorem Crew.ws_area (c : Crew) (n : Nat) (v : Word) : (c.ws n v).area = c.area := by
  unfold Crew.ws; split <;> rfl

@[simp] theorem Crew.wk_id (c : Crew) (n : Nat) (v : Mask) : (c.wk n v).id = c.id := by
  unfold Crew.wk; split <;> rfl
@[simp] theorem Crew.wk_region (c : Crew) (n : Nat) (v : Mask) : (c.wk n v).region = c.region := by
  unfold Crew.wk; split <;> rfl
@[simp] theorem Crew.wk_core (c : Crew) (n : Nat) (v : Mask) : (c.wk n v).core = c.core := by
  unfold Crew.wk; split <;> rfl
@[simp] theorem Crew.wk_quad (c : Crew) (n : Nat) (v : Mask) : (c.wk n v).quad = c.quad := by
  unfold Crew.wk; split <;> rfl
@[simp] theorem Crew.wk_slot (c : Crew) (n : Nat) (v : Mask) : (c.wk n v).slot = c.slot := by
  unfold Crew.wk; split <;> rfl
@[simp] theorem Crew.wk_unit (c : Crew) (n : Nat) (v : Mask) : (c.wk n v).unit = c.unit := by
  unfold Crew.wk; split <;> rfl
@[simp] theorem Crew.wk_state (c : Crew) (n : Nat) (v : Mask) : (c.wk n v).state = c.state := by
  unfold Crew.wk; split <;> rfl
@[simp] theorem Crew.wk_since (c : Crew) (n : Nat) (v : Mask) : (c.wk n v).since = c.since := by
  unfold Crew.wk; split <;> rfl
@[simp] theorem Crew.wk_started (c : Crew) (n : Nat) (v : Mask) : (c.wk n v).started = c.started := by
  unfold Crew.wk; split <;> rfl
@[simp] theorem Crew.wk_parent (c : Crew) (n : Nat) (v : Mask) : (c.wk n v).parent = c.parent := by
  unfold Crew.wk; split <;> rfl
@[simp] theorem Crew.wk_live (c : Crew) (n : Nat) (v : Mask) : (c.wk n v).live = c.live := by
  unfold Crew.wk; split <;> rfl
@[simp] theorem Crew.wk_paths (c : Crew) (n : Nat) (v : Mask) : (c.wk n v).paths = c.paths := by
  unfold Crew.wk; split <;> rfl
@[simp] theorem Crew.wk_s (c : Crew) (n : Nat) (v : Mask) : (c.wk n v).s = c.s := by
  unfold Crew.wk; split <;> rfl
@[simp] theorem Crew.wk_urs (c : Crew) (n : Nat) (v : Mask) : (c.wk n v).urs = c.urs := by
  unfold Crew.wk; split <;> rfl
@[simp] theorem Crew.wk_win (c : Crew) (n : Nat) (v : Mask) : (c.wk n v).win = c.win := by
  unfold Crew.wk; split <;> rfl
@[simp] theorem Crew.wk_views (c : Crew) (n : Nat) (v : Mask) : (c.wk n v).views = c.views := by
  unfold Crew.wk; split <;> rfl
@[simp] theorem Crew.wk_sys (c : Crew) (n : Nat) (v : Mask) : (c.wk n v).sys = c.sys := by
  unfold Crew.wk; split <;> rfl
@[simp] theorem Crew.wk_tags (c : Crew) (n : Nat) (v : Mask) : (c.wk n v).tags = c.tags := by
  unfold Crew.wk; split <;> rfl
@[simp] theorem Crew.wk_acc (c : Crew) (n : Nat) (v : Mask) : (c.wk n v).acc = c.acc := by
  unfold Crew.wk; split <;> rfl
@[simp] theorem Crew.wk_children (c : Crew) (n : Nat) (v : Mask) : (c.wk n v).children = c.children := by
  unfold Crew.wk; split <;> rfl
@[simp] theorem Crew.wk_reserve (c : Crew) (n : Nat) (v : Mask) : (c.wk n v).reserve = c.reserve := by
  unfold Crew.wk; split <;> rfl
@[simp] theorem Crew.wk_handler (c : Crew) (n : Nat) (v : Mask) : (c.wk n v).handler = c.handler := by
  unfold Crew.wk; split <;> rfl
@[simp] theorem Crew.wk_lastRec (c : Crew) (n : Nat) (v : Mask) : (c.wk n v).lastRec = c.lastRec := by
  unfold Crew.wk; split <;> rfl
@[simp] theorem Crew.wk_batches (c : Crew) (n : Nat) (v : Mask) : (c.wk n v).batches = c.batches := by
  unfold Crew.wk; split <;> rfl
@[simp] theorem Crew.wk_arrivals (c : Crew) (n : Nat) (v : Mask) : (c.wk n v).arrivals = c.arrivals := by
  unfold Crew.wk; split <;> rfl
@[simp] theorem Crew.wk_stepped (c : Crew) (n : Nat) (v : Mask) : (c.wk n v).stepped = c.stepped := by
  unfold Crew.wk; split <;> rfl
@[simp] theorem Crew.wk_area (c : Crew) (n : Nat) (v : Mask) : (c.wk n v).area = c.area := by
  unfold Crew.wk; split <;> rfl

@[simp] theorem Crew.updPath_id (c : Crew) (sel : PathSel) (f : Path → Path) : (c.updPath sel f).id = c.id := by
  unfold Crew.updPath; split <;> rfl
@[simp] theorem Crew.updPath_region (c : Crew) (sel : PathSel) (f : Path → Path) : (c.updPath sel f).region = c.region := by
  unfold Crew.updPath; split <;> rfl
@[simp] theorem Crew.updPath_core (c : Crew) (sel : PathSel) (f : Path → Path) : (c.updPath sel f).core = c.core := by
  unfold Crew.updPath; split <;> rfl
@[simp] theorem Crew.updPath_quad (c : Crew) (sel : PathSel) (f : Path → Path) : (c.updPath sel f).quad = c.quad := by
  unfold Crew.updPath; split <;> rfl
@[simp] theorem Crew.updPath_slot (c : Crew) (sel : PathSel) (f : Path → Path) : (c.updPath sel f).slot = c.slot := by
  unfold Crew.updPath; split <;> rfl
@[simp] theorem Crew.updPath_unit (c : Crew) (sel : PathSel) (f : Path → Path) : (c.updPath sel f).unit = c.unit := by
  unfold Crew.updPath; split <;> rfl
@[simp] theorem Crew.updPath_state (c : Crew) (sel : PathSel) (f : Path → Path) : (c.updPath sel f).state = c.state := by
  unfold Crew.updPath; split <;> rfl
@[simp] theorem Crew.updPath_since (c : Crew) (sel : PathSel) (f : Path → Path) : (c.updPath sel f).since = c.since := by
  unfold Crew.updPath; split <;> rfl
@[simp] theorem Crew.updPath_started (c : Crew) (sel : PathSel) (f : Path → Path) : (c.updPath sel f).started = c.started := by
  unfold Crew.updPath; split <;> rfl
@[simp] theorem Crew.updPath_parent (c : Crew) (sel : PathSel) (f : Path → Path) : (c.updPath sel f).parent = c.parent := by
  unfold Crew.updPath; split <;> rfl
@[simp] theorem Crew.updPath_live (c : Crew) (sel : PathSel) (f : Path → Path) : (c.updPath sel f).live = c.live := by
  unfold Crew.updPath; split <;> rfl
@[simp] theorem Crew.updPath_s (c : Crew) (sel : PathSel) (f : Path → Path) : (c.updPath sel f).s = c.s := by
  unfold Crew.updPath; split <;> rfl
@[simp] theorem Crew.updPath_k (c : Crew) (sel : PathSel) (f : Path → Path) : (c.updPath sel f).k = c.k := by
  unfold Crew.updPath; split <;> rfl
@[simp] theorem Crew.updPath_urs (c : Crew) (sel : PathSel) (f : Path → Path) : (c.updPath sel f).urs = c.urs := by
  unfold Crew.updPath; split <;> rfl
@[simp] theorem Crew.updPath_win (c : Crew) (sel : PathSel) (f : Path → Path) : (c.updPath sel f).win = c.win := by
  unfold Crew.updPath; split <;> rfl
@[simp] theorem Crew.updPath_views (c : Crew) (sel : PathSel) (f : Path → Path) : (c.updPath sel f).views = c.views := by
  unfold Crew.updPath; split <;> rfl
@[simp] theorem Crew.updPath_sys (c : Crew) (sel : PathSel) (f : Path → Path) : (c.updPath sel f).sys = c.sys := by
  unfold Crew.updPath; split <;> rfl
@[simp] theorem Crew.updPath_tags (c : Crew) (sel : PathSel) (f : Path → Path) : (c.updPath sel f).tags = c.tags := by
  unfold Crew.updPath; split <;> rfl
@[simp] theorem Crew.updPath_acc (c : Crew) (sel : PathSel) (f : Path → Path) : (c.updPath sel f).acc = c.acc := by
  unfold Crew.updPath; split <;> rfl
@[simp] theorem Crew.updPath_children (c : Crew) (sel : PathSel) (f : Path → Path) : (c.updPath sel f).children = c.children := by
  unfold Crew.updPath; split <;> rfl
@[simp] theorem Crew.updPath_reserve (c : Crew) (sel : PathSel) (f : Path → Path) : (c.updPath sel f).reserve = c.reserve := by
  unfold Crew.updPath; split <;> rfl
@[simp] theorem Crew.updPath_handler (c : Crew) (sel : PathSel) (f : Path → Path) : (c.updPath sel f).handler = c.handler := by
  unfold Crew.updPath; split <;> rfl
@[simp] theorem Crew.updPath_lastRec (c : Crew) (sel : PathSel) (f : Path → Path) : (c.updPath sel f).lastRec = c.lastRec := by
  unfold Crew.updPath; split <;> rfl
@[simp] theorem Crew.updPath_batches (c : Crew) (sel : PathSel) (f : Path → Path) : (c.updPath sel f).batches = c.batches := by
  unfold Crew.updPath; split <;> rfl
@[simp] theorem Crew.updPath_arrivals (c : Crew) (sel : PathSel) (f : Path → Path) : (c.updPath sel f).arrivals = c.arrivals := by
  unfold Crew.updPath; split <;> rfl
@[simp] theorem Crew.updPath_stepped (c : Crew) (sel : PathSel) (f : Path → Path) : (c.updPath sel f).stepped = c.stepped := by
  unfold Crew.updPath; split <;> rfl
@[simp] theorem Crew.updPath_area (c : Crew) (sel : PathSel) (f : Path → Path) : (c.updPath sel f).area = c.area := by
  unfold Crew.updPath; split <;> rfl

/-! ### State.cover, State.batchDelivered, Crew.batchRec -/

@[simp] theorem State.cover_pkgId (s : State) (crew : Nat) (bs : List Nat) : (s.cover crew bs).pkgId = s.pkgId := rfl
@[simp] theorem State.cover_mode (s : State) (crew : Nat) (bs : List Nat) : (s.cover crew bs).mode = s.mode := rfl
@[simp] theorem State.cover_slate (s : State) (crew : Nat) (bs : List Nat) : (s.cover crew bs).slate = s.slate := rfl
@[simp] theorem State.cover_g (s : State) (crew : Nat) (bs : List Nat) : (s.cover crew bs).g = s.g := rfl
@[simp] theorem State.cover_past (s : State) (crew : Nat) (bs : List Nat) : (s.cover crew bs).past = s.past := rfl
@[simp] theorem State.cover_writes (s : State) (crew : Nat) (bs : List Nat) : (s.cover crew bs).writes = s.writes := rfl
@[simp] theorem State.cover_cols (s : State) (crew : Nat) (bs : List Nat) : (s.cover crew bs).cols = s.cols := rfl
@[simp] theorem State.cover_cores (s : State) (crew : Nat) (bs : List Nat) : (s.cover crew bs).cores = s.cores := rfl
@[simp] theorem State.cover_clusters (s : State) (crew : Nat) (bs : List Nat) : (s.cover crew bs).clusters = s.clusters := rfl
@[simp] theorem State.cover_dies (s : State) (crew : Nat) (bs : List Nat) : (s.cover crew bs).dies = s.dies := rfl
@[simp] theorem State.cover_regions (s : State) (crew : Nat) (bs : List Nat) : (s.cover crew bs).regions = s.regions := rfl
@[simp] theorem State.cover_stepGens (s : State) (crew : Nat) (bs : List Nat) : (s.cover crew bs).stepGens = s.stepGens := rfl
@[simp] theorem State.cover_pins (s : State) (crew : Nat) (bs : List Nat) : (s.cover crew bs).pins = s.pins := rfl
@[simp] theorem State.cover_queues (s : State) (crew : Nat) (bs : List Nat) : (s.cover crew bs).queues = s.queues := rfl
@[simp] theorem State.cover_events (s : State) (crew : Nat) (bs : List Nat) : (s.cover crew bs).events = s.events := rfl
@[simp] theorem State.cover_power (s : State) (crew : Nat) (bs : List Nat) : (s.cover crew bs).power = s.power := rfl
@[simp] theorem State.cover_fab (s : State) (crew : Nat) (bs : List Nat) : (s.cover crew bs).fab = s.fab := rfl
@[simp] theorem State.cover_firm (s : State) (crew : Nat) (bs : List Nat) : (s.cover crew bs).firm = s.firm := rfl
@[simp] theorem State.cover_flash (s : State) (crew : Nat) (bs : List Nat) : (s.cover crew bs).flash = s.flash := rfl
@[simp] theorem State.cover_boot (s : State) (crew : Nat) (bs : List Nat) : (s.cover crew bs).boot = s.boot := rfl
@[simp] theorem State.cover_dbg (s : State) (crew : Nat) (bs : List Nat) : (s.cover crew bs).dbg = s.dbg := rfl
@[simp] theorem State.cover_hist (s : State) (crew : Nat) (bs : List Nat) : (s.cover crew bs).hist = s.hist := rfl
@[simp] theorem State.cover_focus (s : State) (crew : Nat) (bs : List Nat) : (s.cover crew bs).focus = s.focus := rfl
@[simp] theorem State.cover_inbox (s : State) (crew : Nat) (bs : List Nat) : (s.cover crew bs).inbox = s.inbox := rfl
@[simp] theorem State.cover_free (s : State) (crew : Nat) (bs : List Nat) : (s.cover crew bs).free = s.free := rfl
@[simp] theorem State.cover_stamp (s : State) (crew : Nat) (bs : List Nat) : (s.cover crew bs).stamp = s.stamp := rfl
@[simp] theorem State.cover_nextId (s : State) (crew : Nat) (bs : List Nat) : (s.cover crew bs).nextId = s.nextId := rfl
@[simp] theorem State.batchDelivered_pkgId (s : State) (crew : Nat) (t : Trap) (rc : FaultRec) :
    (s.batchDelivered crew t rc).pkgId = s.pkgId := by
  unfold State.batchDelivered; split <;> rfl
@[simp] theorem State.batchDelivered_mode (s : State) (crew : Nat) (t : Trap) (rc : FaultRec) :
    (s.batchDelivered crew t rc).mode = s.mode := by
  unfold State.batchDelivered; split <;> rfl
@[simp] theorem State.batchDelivered_slate (s : State) (crew : Nat) (t : Trap) (rc : FaultRec) :
    (s.batchDelivered crew t rc).slate = s.slate := by
  unfold State.batchDelivered; split <;> rfl
@[simp] theorem State.batchDelivered_g (s : State) (crew : Nat) (t : Trap) (rc : FaultRec) :
    (s.batchDelivered crew t rc).g = s.g := by
  unfold State.batchDelivered; split <;> rfl
@[simp] theorem State.batchDelivered_past (s : State) (crew : Nat) (t : Trap) (rc : FaultRec) :
    (s.batchDelivered crew t rc).past = s.past := by
  unfold State.batchDelivered; split <;> rfl
@[simp] theorem State.batchDelivered_writes (s : State) (crew : Nat) (t : Trap) (rc : FaultRec) :
    (s.batchDelivered crew t rc).writes = s.writes := by
  unfold State.batchDelivered; split <;> rfl
@[simp] theorem State.batchDelivered_cols (s : State) (crew : Nat) (t : Trap) (rc : FaultRec) :
    (s.batchDelivered crew t rc).cols = s.cols := by
  unfold State.batchDelivered; split <;> rfl
@[simp] theorem State.batchDelivered_cores (s : State) (crew : Nat) (t : Trap) (rc : FaultRec) :
    (s.batchDelivered crew t rc).cores = s.cores := by
  unfold State.batchDelivered; split <;> rfl
@[simp] theorem State.batchDelivered_clusters (s : State) (crew : Nat) (t : Trap) (rc : FaultRec) :
    (s.batchDelivered crew t rc).clusters = s.clusters := by
  unfold State.batchDelivered; split <;> rfl
@[simp] theorem State.batchDelivered_dies (s : State) (crew : Nat) (t : Trap) (rc : FaultRec) :
    (s.batchDelivered crew t rc).dies = s.dies := by
  unfold State.batchDelivered; split <;> rfl
@[simp] theorem State.batchDelivered_regions (s : State) (crew : Nat) (t : Trap) (rc : FaultRec) :
    (s.batchDelivered crew t rc).regions = s.regions := by
  unfold State.batchDelivered; split <;> rfl
@[simp] theorem State.batchDelivered_stepGens (s : State) (crew : Nat) (t : Trap) (rc : FaultRec) :
    (s.batchDelivered crew t rc).stepGens = s.stepGens := by
  unfold State.batchDelivered; split <;> rfl
@[simp] theorem State.batchDelivered_pins (s : State) (crew : Nat) (t : Trap) (rc : FaultRec) :
    (s.batchDelivered crew t rc).pins = s.pins := by
  unfold State.batchDelivered; split <;> rfl
@[simp] theorem State.batchDelivered_queues (s : State) (crew : Nat) (t : Trap) (rc : FaultRec) :
    (s.batchDelivered crew t rc).queues = s.queues := by
  unfold State.batchDelivered; split <;> rfl
@[simp] theorem State.batchDelivered_events (s : State) (crew : Nat) (t : Trap) (rc : FaultRec) :
    (s.batchDelivered crew t rc).events = s.events := by
  unfold State.batchDelivered; split <;> rfl
@[simp] theorem State.batchDelivered_power (s : State) (crew : Nat) (t : Trap) (rc : FaultRec) :
    (s.batchDelivered crew t rc).power = s.power := by
  unfold State.batchDelivered; split <;> rfl
@[simp] theorem State.batchDelivered_fab (s : State) (crew : Nat) (t : Trap) (rc : FaultRec) :
    (s.batchDelivered crew t rc).fab = s.fab := by
  unfold State.batchDelivered; split <;> rfl
@[simp] theorem State.batchDelivered_firm (s : State) (crew : Nat) (t : Trap) (rc : FaultRec) :
    (s.batchDelivered crew t rc).firm = s.firm := by
  unfold State.batchDelivered; split <;> rfl
@[simp] theorem State.batchDelivered_flash (s : State) (crew : Nat) (t : Trap) (rc : FaultRec) :
    (s.batchDelivered crew t rc).flash = s.flash := by
  unfold State.batchDelivered; split <;> rfl
@[simp] theorem State.batchDelivered_boot (s : State) (crew : Nat) (t : Trap) (rc : FaultRec) :
    (s.batchDelivered crew t rc).boot = s.boot := by
  unfold State.batchDelivered; split <;> rfl
@[simp] theorem State.batchDelivered_dbg (s : State) (crew : Nat) (t : Trap) (rc : FaultRec) :
    (s.batchDelivered crew t rc).dbg = s.dbg := by
  unfold State.batchDelivered; split <;> rfl
@[simp] theorem State.batchDelivered_hist (s : State) (crew : Nat) (t : Trap) (rc : FaultRec) :
    (s.batchDelivered crew t rc).hist = s.hist := by
  unfold State.batchDelivered; split <;> rfl
@[simp] theorem State.batchDelivered_focus (s : State) (crew : Nat) (t : Trap) (rc : FaultRec) :
    (s.batchDelivered crew t rc).focus = s.focus := by
  unfold State.batchDelivered; split <;> rfl
@[simp] theorem State.batchDelivered_inbox (s : State) (crew : Nat) (t : Trap) (rc : FaultRec) :
    (s.batchDelivered crew t rc).inbox = s.inbox := by
  unfold State.batchDelivered; split <;> rfl
@[simp] theorem State.batchDelivered_free (s : State) (crew : Nat) (t : Trap) (rc : FaultRec) :
    (s.batchDelivered crew t rc).free = s.free := by
  unfold State.batchDelivered; split <;> rfl
@[simp] theorem State.batchDelivered_stamp (s : State) (crew : Nat) (t : Trap) (rc : FaultRec) :
    (s.batchDelivered crew t rc).stamp = s.stamp := by
  unfold State.batchDelivered; split <;> rfl
@[simp] theorem State.batchDelivered_nextId (s : State) (crew : Nat) (t : Trap) (rc : FaultRec) :
    (s.batchDelivered crew t rc).nextId = s.nextId := by
  unfold State.batchDelivered; split <;> rfl
@[simp] theorem Crew.batchRec_id (c : Crew) (serial : Nat) (q : FaultRec) : (c.batchRec serial q).id = c.id := rfl
@[simp] theorem Crew.batchRec_region (c : Crew) (serial : Nat) (q : FaultRec) : (c.batchRec serial q).region = c.region := rfl
@[simp] theorem Crew.batchRec_core (c : Crew) (serial : Nat) (q : FaultRec) : (c.batchRec serial q).core = c.core := rfl
@[simp] theorem Crew.batchRec_quad (c : Crew) (serial : Nat) (q : FaultRec) : (c.batchRec serial q).quad = c.quad := rfl
@[simp] theorem Crew.batchRec_slot (c : Crew) (serial : Nat) (q : FaultRec) : (c.batchRec serial q).slot = c.slot := rfl
@[simp] theorem Crew.batchRec_unit (c : Crew) (serial : Nat) (q : FaultRec) : (c.batchRec serial q).unit = c.unit := rfl
@[simp] theorem Crew.batchRec_state (c : Crew) (serial : Nat) (q : FaultRec) : (c.batchRec serial q).state = c.state := rfl
@[simp] theorem Crew.batchRec_since (c : Crew) (serial : Nat) (q : FaultRec) : (c.batchRec serial q).since = c.since := rfl
@[simp] theorem Crew.batchRec_started (c : Crew) (serial : Nat) (q : FaultRec) : (c.batchRec serial q).started = c.started := rfl
@[simp] theorem Crew.batchRec_parent (c : Crew) (serial : Nat) (q : FaultRec) : (c.batchRec serial q).parent = c.parent := rfl
@[simp] theorem Crew.batchRec_live (c : Crew) (serial : Nat) (q : FaultRec) : (c.batchRec serial q).live = c.live := rfl
@[simp] theorem Crew.batchRec_paths (c : Crew) (serial : Nat) (q : FaultRec) : (c.batchRec serial q).paths = c.paths := rfl
@[simp] theorem Crew.batchRec_s (c : Crew) (serial : Nat) (q : FaultRec) : (c.batchRec serial q).s = c.s := rfl
@[simp] theorem Crew.batchRec_k (c : Crew) (serial : Nat) (q : FaultRec) : (c.batchRec serial q).k = c.k := rfl
@[simp] theorem Crew.batchRec_urs (c : Crew) (serial : Nat) (q : FaultRec) : (c.batchRec serial q).urs = c.urs := rfl
@[simp] theorem Crew.batchRec_win (c : Crew) (serial : Nat) (q : FaultRec) : (c.batchRec serial q).win = c.win := rfl
@[simp] theorem Crew.batchRec_views (c : Crew) (serial : Nat) (q : FaultRec) : (c.batchRec serial q).views = c.views := rfl
@[simp] theorem Crew.batchRec_sys (c : Crew) (serial : Nat) (q : FaultRec) : (c.batchRec serial q).sys = c.sys := rfl
@[simp] theorem Crew.batchRec_tags (c : Crew) (serial : Nat) (q : FaultRec) : (c.batchRec serial q).tags = c.tags := rfl
@[simp] theorem Crew.batchRec_acc (c : Crew) (serial : Nat) (q : FaultRec) : (c.batchRec serial q).acc = c.acc := rfl
@[simp] theorem Crew.batchRec_children (c : Crew) (serial : Nat) (q : FaultRec) : (c.batchRec serial q).children = c.children := rfl
@[simp] theorem Crew.batchRec_reserve (c : Crew) (serial : Nat) (q : FaultRec) : (c.batchRec serial q).reserve = c.reserve := rfl
@[simp] theorem Crew.batchRec_handler (c : Crew) (serial : Nat) (q : FaultRec) : (c.batchRec serial q).handler = c.handler := rfl
@[simp] theorem Crew.batchRec_lastRec (c : Crew) (serial : Nat) (q : FaultRec) : (c.batchRec serial q).lastRec = c.lastRec := rfl
@[simp] theorem Crew.batchRec_arrivals (c : Crew) (serial : Nat) (q : FaultRec) : (c.batchRec serial q).arrivals = c.arrivals := rfl
@[simp] theorem Crew.batchRec_stepped (c : Crew) (serial : Nat) (q : FaultRec) : (c.batchRec serial q).stepped = c.stepped := rfl
@[simp] theorem Crew.batchRec_area (c : Crew) (serial : Nat) (q : FaultRec) : (c.batchRec serial q).area = c.area := rfl

/-! ### State.turned, State.servedRows, State.serve -/

@[simp] theorem State.turned_pkgId (s : State) (col : Bool) (ks : List Nat) : (s.turned col ks).pkgId = s.pkgId := rfl
@[simp] theorem State.turned_mode (s : State) (col : Bool) (ks : List Nat) : (s.turned col ks).mode = s.mode := rfl
@[simp] theorem State.turned_slate (s : State) (col : Bool) (ks : List Nat) : (s.turned col ks).slate = s.slate := rfl
@[simp] theorem State.turned_g (s : State) (col : Bool) (ks : List Nat) : (s.turned col ks).g = s.g := rfl
@[simp] theorem State.turned_past (s : State) (col : Bool) (ks : List Nat) : (s.turned col ks).past = s.past := rfl
@[simp] theorem State.turned_writes (s : State) (col : Bool) (ks : List Nat) : (s.turned col ks).writes = s.writes := rfl
@[simp] theorem State.turned_cores (s : State) (col : Bool) (ks : List Nat) : (s.turned col ks).cores = s.cores := rfl
@[simp] theorem State.turned_clusters (s : State) (col : Bool) (ks : List Nat) : (s.turned col ks).clusters = s.clusters := rfl
@[simp] theorem State.turned_dies (s : State) (col : Bool) (ks : List Nat) : (s.turned col ks).dies = s.dies := rfl
@[simp] theorem State.turned_regions (s : State) (col : Bool) (ks : List Nat) : (s.turned col ks).regions = s.regions := rfl
@[simp] theorem State.turned_crews (s : State) (col : Bool) (ks : List Nat) : (s.turned col ks).crews = s.crews := rfl
@[simp] theorem State.turned_copies (s : State) (col : Bool) (ks : List Nat) : (s.turned col ks).copies = s.copies := rfl
@[simp] theorem State.turned_stepGens (s : State) (col : Bool) (ks : List Nat) : (s.turned col ks).stepGens = s.stepGens := rfl
@[simp] theorem State.turned_pins (s : State) (col : Bool) (ks : List Nat) : (s.turned col ks).pins = s.pins := rfl
@[simp] theorem State.turned_queues (s : State) (col : Bool) (ks : List Nat) : (s.turned col ks).queues = s.queues := rfl
@[simp] theorem State.turned_events (s : State) (col : Bool) (ks : List Nat) : (s.turned col ks).events = s.events := rfl
@[simp] theorem State.turned_power (s : State) (col : Bool) (ks : List Nat) : (s.turned col ks).power = s.power := rfl
@[simp] theorem State.turned_fab (s : State) (col : Bool) (ks : List Nat) : (s.turned col ks).fab = s.fab := rfl
@[simp] theorem State.turned_firm (s : State) (col : Bool) (ks : List Nat) : (s.turned col ks).firm = s.firm := rfl
@[simp] theorem State.turned_flash (s : State) (col : Bool) (ks : List Nat) : (s.turned col ks).flash = s.flash := rfl
@[simp] theorem State.turned_boot (s : State) (col : Bool) (ks : List Nat) : (s.turned col ks).boot = s.boot := rfl
@[simp] theorem State.turned_dbg (s : State) (col : Bool) (ks : List Nat) : (s.turned col ks).dbg = s.dbg := rfl
@[simp] theorem State.turned_hist (s : State) (col : Bool) (ks : List Nat) : (s.turned col ks).hist = s.hist := rfl
@[simp] theorem State.turned_focus (s : State) (col : Bool) (ks : List Nat) : (s.turned col ks).focus = s.focus := rfl
@[simp] theorem State.turned_inbox (s : State) (col : Bool) (ks : List Nat) : (s.turned col ks).inbox = s.inbox := rfl
@[simp] theorem State.turned_free (s : State) (col : Bool) (ks : List Nat) : (s.turned col ks).free = s.free := rfl
@[simp] theorem State.turned_stamp (s : State) (col : Bool) (ks : List Nat) : (s.turned col ks).stamp = s.stamp := rfl
@[simp] theorem State.turned_nextId (s : State) (col : Bool) (ks : List Nat) : (s.turned col ks).nextId = s.nextId := rfl
@[simp] theorem State.servedRows_pkgId (s : State) (pas : List Nat) : (s.servedRows pas).pkgId = s.pkgId := rfl
@[simp] theorem State.servedRows_mode (s : State) (pas : List Nat) : (s.servedRows pas).mode = s.mode := rfl
@[simp] theorem State.servedRows_slate (s : State) (pas : List Nat) : (s.servedRows pas).slate = s.slate := rfl
@[simp] theorem State.servedRows_g (s : State) (pas : List Nat) : (s.servedRows pas).g = s.g := rfl
@[simp] theorem State.servedRows_past (s : State) (pas : List Nat) : (s.servedRows pas).past = s.past := rfl
@[simp] theorem State.servedRows_writes (s : State) (pas : List Nat) : (s.servedRows pas).writes = s.writes := rfl
@[simp] theorem State.servedRows_cores (s : State) (pas : List Nat) : (s.servedRows pas).cores = s.cores := rfl
@[simp] theorem State.servedRows_clusters (s : State) (pas : List Nat) : (s.servedRows pas).clusters = s.clusters := rfl
@[simp] theorem State.servedRows_dies (s : State) (pas : List Nat) : (s.servedRows pas).dies = s.dies := rfl
@[simp] theorem State.servedRows_regions (s : State) (pas : List Nat) : (s.servedRows pas).regions = s.regions := rfl
@[simp] theorem State.servedRows_crews (s : State) (pas : List Nat) : (s.servedRows pas).crews = s.crews := rfl
@[simp] theorem State.servedRows_copies (s : State) (pas : List Nat) : (s.servedRows pas).copies = s.copies := rfl
@[simp] theorem State.servedRows_stepGens (s : State) (pas : List Nat) : (s.servedRows pas).stepGens = s.stepGens := rfl
@[simp] theorem State.servedRows_pins (s : State) (pas : List Nat) : (s.servedRows pas).pins = s.pins := rfl
@[simp] theorem State.servedRows_queues (s : State) (pas : List Nat) : (s.servedRows pas).queues = s.queues := rfl
@[simp] theorem State.servedRows_events (s : State) (pas : List Nat) : (s.servedRows pas).events = s.events := rfl
@[simp] theorem State.servedRows_power (s : State) (pas : List Nat) : (s.servedRows pas).power = s.power := rfl
@[simp] theorem State.servedRows_fab (s : State) (pas : List Nat) : (s.servedRows pas).fab = s.fab := rfl
@[simp] theorem State.servedRows_firm (s : State) (pas : List Nat) : (s.servedRows pas).firm = s.firm := rfl
@[simp] theorem State.servedRows_flash (s : State) (pas : List Nat) : (s.servedRows pas).flash = s.flash := rfl
@[simp] theorem State.servedRows_boot (s : State) (pas : List Nat) : (s.servedRows pas).boot = s.boot := rfl
@[simp] theorem State.servedRows_dbg (s : State) (pas : List Nat) : (s.servedRows pas).dbg = s.dbg := rfl
@[simp] theorem State.servedRows_hist (s : State) (pas : List Nat) : (s.servedRows pas).hist = s.hist := rfl
@[simp] theorem State.servedRows_focus (s : State) (pas : List Nat) : (s.servedRows pas).focus = s.focus := rfl
@[simp] theorem State.servedRows_inbox (s : State) (pas : List Nat) : (s.servedRows pas).inbox = s.inbox := rfl
@[simp] theorem State.servedRows_free (s : State) (pas : List Nat) : (s.servedRows pas).free = s.free := rfl
@[simp] theorem State.servedRows_stamp (s : State) (pas : List Nat) : (s.servedRows pas).stamp = s.stamp := rfl
@[simp] theorem State.servedRows_nextId (s : State) (pas : List Nat) : (s.servedRows pas).nextId = s.nextId := rfl
@[simp] theorem State.serve_pkgId (s : State) (core : Nat) (col : Bool) (vas : List Nat) :
    (s.serve core col vas).pkgId = s.pkgId := rfl
@[simp] theorem State.serve_mode (s : State) (core : Nat) (col : Bool) (vas : List Nat) :
    (s.serve core col vas).mode = s.mode := rfl
@[simp] theorem State.serve_slate (s : State) (core : Nat) (col : Bool) (vas : List Nat) :
    (s.serve core col vas).slate = s.slate := rfl
@[simp] theorem State.serve_g (s : State) (core : Nat) (col : Bool) (vas : List Nat) : (s.serve core col vas).g = s.g := rfl
@[simp] theorem State.serve_past (s : State) (core : Nat) (col : Bool) (vas : List Nat) :
    (s.serve core col vas).past = s.past := rfl
@[simp] theorem State.serve_writes (s : State) (core : Nat) (col : Bool) (vas : List Nat) :
    (s.serve core col vas).writes = s.writes := rfl
@[simp] theorem State.serve_cores (s : State) (core : Nat) (col : Bool) (vas : List Nat) :
    (s.serve core col vas).cores = s.cores := rfl
@[simp] theorem State.serve_clusters (s : State) (core : Nat) (col : Bool) (vas : List Nat) :
    (s.serve core col vas).clusters = s.clusters := rfl
@[simp] theorem State.serve_dies (s : State) (core : Nat) (col : Bool) (vas : List Nat) :
    (s.serve core col vas).dies = s.dies := rfl
@[simp] theorem State.serve_regions (s : State) (core : Nat) (col : Bool) (vas : List Nat) :
    (s.serve core col vas).regions = s.regions := rfl
@[simp] theorem State.serve_crews (s : State) (core : Nat) (col : Bool) (vas : List Nat) :
    (s.serve core col vas).crews = s.crews := rfl
@[simp] theorem State.serve_copies (s : State) (core : Nat) (col : Bool) (vas : List Nat) :
    (s.serve core col vas).copies = s.copies := rfl
@[simp] theorem State.serve_stepGens (s : State) (core : Nat) (col : Bool) (vas : List Nat) :
    (s.serve core col vas).stepGens = s.stepGens := rfl
@[simp] theorem State.serve_pins (s : State) (core : Nat) (col : Bool) (vas : List Nat) :
    (s.serve core col vas).pins = s.pins := rfl
@[simp] theorem State.serve_queues (s : State) (core : Nat) (col : Bool) (vas : List Nat) :
    (s.serve core col vas).queues = s.queues := rfl
@[simp] theorem State.serve_events (s : State) (core : Nat) (col : Bool) (vas : List Nat) :
    (s.serve core col vas).events = s.events := rfl
@[simp] theorem State.serve_power (s : State) (core : Nat) (col : Bool) (vas : List Nat) :
    (s.serve core col vas).power = s.power := rfl
@[simp] theorem State.serve_fab (s : State) (core : Nat) (col : Bool) (vas : List Nat) : (s.serve core col vas).fab = s.fab := rfl
@[simp] theorem State.serve_firm (s : State) (core : Nat) (col : Bool) (vas : List Nat) :
    (s.serve core col vas).firm = s.firm := rfl
@[simp] theorem State.serve_flash (s : State) (core : Nat) (col : Bool) (vas : List Nat) :
    (s.serve core col vas).flash = s.flash := rfl
@[simp] theorem State.serve_boot (s : State) (core : Nat) (col : Bool) (vas : List Nat) :
    (s.serve core col vas).boot = s.boot := rfl
@[simp] theorem State.serve_dbg (s : State) (core : Nat) (col : Bool) (vas : List Nat) : (s.serve core col vas).dbg = s.dbg := rfl
@[simp] theorem State.serve_hist (s : State) (core : Nat) (col : Bool) (vas : List Nat) :
    (s.serve core col vas).hist = s.hist := rfl
@[simp] theorem State.serve_focus (s : State) (core : Nat) (col : Bool) (vas : List Nat) :
    (s.serve core col vas).focus = s.focus := rfl
@[simp] theorem State.serve_inbox (s : State) (core : Nat) (col : Bool) (vas : List Nat) :
    (s.serve core col vas).inbox = s.inbox := rfl
@[simp] theorem State.serve_free (s : State) (core : Nat) (col : Bool) (vas : List Nat) :
    (s.serve core col vas).free = s.free := rfl
@[simp] theorem State.serve_stamp (s : State) (core : Nat) (col : Bool) (vas : List Nat) :
    (s.serve core col vas).stamp = s.stamp := rfl
@[simp] theorem State.serve_nextId (s : State) (core : Nat) (col : Bool) (vas : List Nat) :
    (s.serve core col vas).nextId = s.nextId := rfl

end Sys2Proof.Machine
end

