-- ==== Sys2Proof/Laws/Access.lean ====
section
/-! SUPPORT. Where the bytes of one page lie: below every window a page is translated once, and its bytes follow one another
(R360, R361). -/

namespace Sys2Proof.Machine

/-- Below the wake registers there is no window. -/
theorem State.windowLoc_none (s : State) (cluster region : Nat) {va : Nat} (h : va < wakeBase) :
    s.windowLoc cluster region va = none := by
  have h1 : va < 2 ^ 57 := by simp only [wakeBase] at h; omega
  have h2 : va < apertureBase := by simp only [wakeBase, apertureBase] at *; omega
  have h3 : va < holeBase := by simp only [wakeBase, holeBase] at *; omega
  simp only [State.windowLoc, Nat.not_le.2 h1, Nat.not_le.2 h2, Nat.not_le.2 h3, Nat.not_le.2 h, if_false]

/-- Bytes of a page that is translated already. -/
theorem State.locsWith_page (s : State) (core region : Nat) (k : AccKind) (sys : Bool) {q p : Nat} (vas : List Nat)
    (acc : List (Nat × Nat)) (hv : ∀ va ∈ vas, va < wakeBase ∧ va / 4096 = q) (ha : look q acc = some p) :
    s.locsWith core region k sys vas acc = .ok (vas.map (fun va => .mem (p + va % 4096))) := by
  induction vas with
  | nil => rfl
  | cons va r ih =>
    have h := hv va (List.mem_cons_self ..)
    simp only [State.locsWith, s.windowLoc_none _ _ h.1, h.2, ha, ih (fun v hm => hv v (List.mem_cons_of_mem _ hm)), List.map_cons]

/-- Bytes of one page. -/
theorem State.locs_page (s : State) (core region : Nat) (k : AccKind) (sys : Bool) {q p va : Nat} (r : List Nat)
    (hv : ∀ x ∈ va :: r, x < wakeBase ∧ x / 4096 = q) (hp : s.pageOf core k sys va = .ok p) :
    s.locs core region k sys (va :: r) = .ok ((va :: r).map (fun x => .mem (p + x % 4096))) := by
  have h := hv va (List.mem_cons_self ..)
  have hr := s.locsWith_page core region k sys r [(va / 4096, p)] (q := q) (p := p)
    (fun x hx => hv x (List.mem_cons_of_mem _ hx)) (by simp [look, h.2])
  simp [State.locs, State.locsWith, s.windowLoc_none _ _ h.1, look, hp, hr]

end Sys2Proof.Machine
end

