-- ==== Sys2Proof/Laws/HandOff.lean ====
section
/-! SUPPORT. What an update of one crew does, how a path goes on after a word, and what handing a word to its engine gives. -/

namespace Sys2Proof.Machine

/-! ### Crews by identity -/

theorem State.crew?_id {s : State} {id : Nat} {c : Crew} (h : s.crew? id = some c) : c.id = id := by
  have := List.find?_some h
  simpa using this

/-- The crew of an identity after an update that keeps identities. -/
theorem State.crew?_updCrew (s : State) (id : Nat) (f : Crew → Crew) (hf : ∀ c, (f c).id = c.id) :
    (s.updCrew id f).crew? id = (s.crew? id).map f := by
  unfold State.crew? State.updCrew
  simp only
  induction s.crews with
  | nil => rfl
  | cons c r ih =>
    by_cases h : c.id = id
    · simp [h, hf]
    · simp [h, ih]

theorem State.crew?_updCrew_other (s : State) {id k : Nat} (f : Crew → Crew) (hf : ∀ c, (f c).id = c.id)
    (hk : k ≠ id) : (s.updCrew id f).crew? k = s.crew? k := by
  unfold State.crew? State.updCrew
  simp only
  induction s.crews with
  | nil => rfl
  | cons c r ih =>
    by_cases h : c.id = id
    · have h2 : c.id ≠ k := by omega
      simp [h, hf, ih, Ne.symm hk]
    · simp only [List.map_cons, h, if_false, List.find?_cons, ih]

/-! ### Nothing but one crew -/

theorem State.onlyCrew.refl (s : State) (id : Nat) : s.onlyCrew s id := ⟨rfl, fun _ _ => rfl⟩

theorem State.onlyCrew.trans {s t u : State} {id : Nat} (h : s.onlyCrew t id) (k : t.onlyCrew u id) : s.onlyCrew u id := by
  refine ⟨?_, fun j hj => (k.2 j hj).trans (h.2 j hj)⟩
  have h1 := h.1
  have k1 := k.1
  rw [h1] at k1
  exact k1

theorem State.onlyCrew_updCrew (s : State) (id : Nat) (f : Crew → Crew) (hf : ∀ c, (f c).id = c.id) :
    s.onlyCrew (s.updCrew id f) id := ⟨rfl, fun _ hj => s.crew?_updCrew_other f hf hj⟩

theorem State.onlyCrew_stamp (s : State) (id n : Nat) : s.onlyCrew { s with stamp := n } id := ⟨rfl, fun _ _ => rfl⟩

/-! ### Crews that agree but for their paths -/

theorem Crew.agrees.refl (c : Crew) : c.agrees c := rfl

theorem Crew.agrees.trans {c d e : Crew} (h : c.agrees d) (k : d.agrees e) : c.agrees e := by
  unfold Crew.agrees at *
  rw [h] at k
  exact k

theorem Crew.agrees_updPath (c : Crew) (sel : PathSel) (f : Path → Path) : c.agrees (c.updPath sel f) := by
  unfold Crew.agrees Crew.updPath
  split <;> rfl

theorem Crew.agrees_mergePeers (c : Crew) (pc : Word) (ps : List Path) : c.agrees (c.mergePeers pc ps) := rfl

theorem Crew.agrees_tryMerge (c : Crew) : c.agrees c.tryMerge := by
  unfold Crew.tryMerge
  split <;> (try split) <;> first | exact Crew.agrees.refl c | exact Crew.agrees_mergePeers c _ _

theorem Crew.agrees_atBoundary (c : Crew) (sel : PathSel) (top : Nat) : c.agrees (c.atBoundary sel top) := by
  unfold Crew.atBoundary
  split
  · exact Crew.agrees.refl c
  · split
    · exact Crew.agrees_updPath c sel _
    · exact (Crew.agrees_updPath c sel _).trans (Crew.agrees_tryMerge _)

theorem Crew.agrees_endClause (c : Crew) (sel : PathSel) (next : Word) (top : Nat) :
    c.agrees (c.endClause sel next top) := (Crew.agrees_updPath c sel _).trans (Crew.agrees_atBoundary _ sel top)

theorem Crew.agrees_dropOlds (c : Crew) (sel : PathSel) (wr : List SbUnit) : c.agrees (c.dropOlds sel wr) := by
  unfold Crew.dropOlds
  split
  · exact Crew.agrees.refl c
  · exact Crew.agrees_updPath c _ _

theorem Crew.agrees.id_eq {c d : Crew} (h : c.agrees d) : d.id = c.id := by rw [h]

/-! ### A path goes on -/

/-- Two states with the crew of an identity changed to one that agrees. -/
def State.moves (s t : State) (id : Nat) : Prop :=
  s.onlyCrew t id ∧ ∀ c, s.crew? id = some c → ∃ d, t.crew? id = some d ∧ c.agrees d

theorem State.moves.trans {s t u : State} {id : Nat} (h : s.moves t id) (k : t.moves u id) : s.moves u id :=
  ⟨h.1.trans k.1, fun c hc =>
    let ⟨d, hd, hcd⟩ := h.2 c hc
    let ⟨e, he, hde⟩ := k.2 d hd
    ⟨e, he, hcd.trans hde⟩⟩

theorem State.moves_updCrew (s : State) (id : Nat) (f : Crew → Crew) (hf : ∀ c : Crew, c.agrees (f c)) :
    s.moves (s.updCrew id f) id := by
  refine ⟨s.onlyCrew_updCrew id f (fun c => (hf c).id_eq), fun c hc => ⟨f c, ?_, hf c⟩⟩
  rw [s.crew?_updCrew id f (fun c => (hf c).id_eq), hc]; rfl

theorem State.moves_updPath (s : State) (r : PathRef) (f : Path → Path) : s.moves (s.updPath r f) r.crew :=
  s.moves_updCrew r.crew _ (fun c => c.agrees_updPath r.sel f)

theorem State.moves_endClause (s : State) (r : PathRef) (next : Word) : s.moves (s.endClause r next) r.crew :=
  State.moves.trans (t := { s with stamp := s.stamp + stampStride })
    ⟨s.onlyCrew_stamp r.crew _, fun c hc => ⟨c, hc, Crew.agrees.refl c⟩⟩
    (State.moves_updCrew _ r.crew _ (fun c => c.agrees_endClause r.sel next s.stamp))

theorem State.moves_advance (s : State) (r : PathRef) : s.moves (s.advance r) r.crew := by
  unfold State.advance
  split
  · exact ⟨State.onlyCrew.refl s _, fun c hc => ⟨c, hc, Crew.agrees.refl c⟩⟩
  · split
    · exact (s.moves_updPath r _).trans (State.moves_updCrew _ r.crew _ Crew.agrees_tryMerge)
    · split
      · exact s.moves_updPath r _
      · exact s.moves_endClause r _

/-- A word joins what its path has in flight: nothing but the paths of its crew changes. -/
theorem Env.moves_launch (e : Env) (i : Instr) (s : State) : s.moves (e.launch i s) e.r.crew :=
  s.moves_updCrew e.r.crew _ (fun c => (c.agrees_dropOlds e.r.sel _).trans (Crew.agrees_updPath _ e.r.sel _))

/-- The path goes on after a word: nothing but the paths of its crew changes. -/
theorem Env.moves_finish (e : Env) (i : Instr) (s : State) : s.moves (e.finish i s) e.r.crew :=
  (e.moves_launch i s).trans (State.moves_advance _ e.r)

/-- The path leaves its clause: nothing but the paths of its crew changes. -/
theorem Env.moves_leave (e : Env) (i : Instr) (s : State) (next : Word) : s.moves (e.leave i s next) e.r.crew :=
  (e.moves_launch i s).trans (State.moves_endClause _ e.r next)

/-! ### Handing a word to its engine -/

/-- What a taken word sees. -/
theorem State.taken_env {s : State} {i : Instr} {e : Env} (h : s.taken i = some e) : s.env? i = some e := by
  unfold State.taken at h
  split at h
  · cases h
  next e' he =>
    split at h
    · cases h
    · split at h
      · cases h
      · cases h; exact he

theorem State.taken_free {s : State} {i : Instr} {e : Env} (h : s.taken i = some e) :
    e.blocked i = false ∧ e.own = none ∧ e.check i = none := by
  unfold State.taken at h
  split at h
  · cases h
  next e' he =>
    split at h
    · cases h
    next hb =>
      split at h
      · cases h
      next hc =>
        cases h
        simp only [Bool.or_eq_true, not_or, Bool.not_eq_true, Option.isSome_eq_false_iff, Option.isNone_iff_eq_none] at hb
        exact ⟨hb.1, hb.2, hc⟩

/-- Where a word works under the crew's own views, its environment names the state, the path in focus and its crew. -/
theorem State.env?_crew {s : State} {i : Instr} {e : Env} (h : s.env? i = some e) (ho : e.own = none) :
    e.s = s ∧ s.focus = some e.r ∧ s.crew? e.r.crew = some e.c ∧ e.c.path? e.r.sel = some e.p := by
  unfold State.env? at h
  split at h
  · cases h
  next r hr =>
    split at h
    · cases h
    next c hc =>
      split at h
      · cases h
      next p hp =>
        simp only at h
        split at h
        · cases h; exact ⟨rfl, hr, hc, hp⟩
        · cases h; cases ho

/-- What a taken word sees names the state, the path in focus and its crew. -/
theorem State.taken_crew {s : State} {i : Instr} {e : Env} (h : s.taken i = some e) :
    e.s = s ∧ s.focus = some e.r ∧ s.crew? e.r.crew = some e.c ∧ e.c.path? e.r.sel = some e.p :=
  State.env?_crew (State.taken_env h) (State.taken_free h).2.1

/-- A word under the crew's own views needs nothing restored. -/
theorem Env.restore_none {e : Env} (wr : List SbUnit) (s : State) (ho : e.own = none) : e.restore wr s = s := by
  simp [Env.restore, ho]

/-- A taken word ends as its own meaning says. -/
theorem runWord_taken {i : Instr} {s : State} {e : Env} (f : Env → Res) (h : s.taken i = some e) :
    runWord i s f = .next (e.conclude i (f e)) := by
  have he := State.taken_env h
  have hb := State.taken_free h
  simp [runWord, he, Env.handOff, hb.1, hb.2.2, Env.restore_none _ _ hb.2.1]

/-- A word that an earlier word of its path holds back leaves the state as it is. -/
theorem runWord_blocked {i : Instr} {s : State} {e : Env} (f : Env → Res) (h : s.env? i = some e)
    (ho : e.own = none) (hb : e.blocked i = true) : runWord i s f = .next s := by
  have := (State.env?_crew h ho).1
  simp [runWord, h, Env.handOff, hb, this, Env.restore_none _ _ ho]

/-- A word that fails a dynamic check traps, whatever its meaning. -/
theorem runWord_trap {i : Instr} {s : State} {e : Env} {t : Trap} (f : Env → Res) (h : s.env? i = some e)
    (ho : e.own = none) (hb : e.blocked i = false) (hc : e.check i = some t) :
    runWord i s f = .next (s.takeTrap e.r t) := by
  have := (State.env?_crew h ho).1
  simp [runWord, h, Env.handOff, hb, hc, this, Env.restore_none _ _ ho]

/-- A word of the path in focus never stops the machine. -/
theorem runWord_next {i : Instr} {s : State} {e : Env} (f : Env → Res) (h : s.env? i = some e) :
    ∃ t, runWord i s f = .next t := ⟨e.handOff i f, by simp [runWord, h]⟩

/-- An update of the crew of an identity, which keeps it, is all that it is. -/
theorem State.crewBecomes_updCrew {s : State} {id : Nat} {c : Crew} (h : s.crew? id = some c) (f : Crew → Crew)
    (hf : ∀ c, (f c).id = c.id) : s.crewBecomes (s.updCrew id f) id (f c) :=
  ⟨rfl, fun _ hk => s.crew?_updCrew_other f hf hk, by rw [s.crew?_updCrew id f hf, h]; rfl⟩

/-- A word whose effect is an update of its crew completes with it, and changes nothing else. -/
theorem crewEffect_of_update {i : Instr} {s : State} {f : Env → Res} (g : Env → Crew → Crew)
    (hx : exec i s = runWord i s f) (hf : ∀ e, f e = .ok (e.s.updCrew e.r.crew (g e)))
    (hg : ∀ e c, (g e c).id = c.id) : CrewEffect i s (fun e => g e e.c) := by
  intro e he
  obtain ⟨hs, -, hc, -⟩ := State.taken_crew he
  refine ⟨s.updCrew e.r.crew (g e), ?_, State.crewBecomes_updCrew hc (g e) (hg e)⟩
  rw [hx, runWord_taken f he, hf e, hs]; rfl

/-- The same, where the crew that the update gives is written in another way. -/
theorem crewEffect_of_eq {i : Instr} {s : State} {f : Env → Res} {g : Env → Crew → Crew} {h : Env → Crew}
    (hx : exec i s = runWord i s f) (hf : ∀ e, f e = .ok (e.s.updCrew e.r.crew (g e)))
    (hg : ∀ e c, (g e c).id = c.id) (hh : ∀ e, g e e.c = h e) : CrewEffect i s h := by
  have := crewEffect_of_update g hx hf hg
  rwa [show h = fun e => g e e.c from funext fun e => (hh e).symm]

/-- A word whose meaning is an effect and no more completes from the state it gives. -/
theorem completes_of_ok {i : Instr} {s : State} {f : Env → Res} {p : Env → Prop} {g : Env → State}
    (hx : exec i s = runWord i s f) (hf : ∀ e, p e → f e = .ok (g e)) : Completes i s p g := by
  intro e he hp
  rw [hx, runWord_taken f he, hf e hp]; rfl

end Sys2Proof.Machine
end

