-- ==== Sys2Proof/Laws/Matrix.lean ====
section
/-! SUPPORT. When the format block of a matrix product is accepted, what the product goes on with (R245 to R249). -/

namespace Sys2Proof.Machine

/-- An access that translates acts in the state that it leaves. -/
theorem Env.accessBy_ok {e : Env} {col : Bool} {k : AccKind} {sys : Bool} {vas : List Nat} {ls : List Loc}
    (f : State → List Loc → Res) (h : e.s.locs e.c.core e.c.region k sys vas = .ok ls) :
    e.accessBy col k sys vas f = f (e.s.tlbFillBy e.c.core col vas) ls := by simp [Env.accessBy, h]

/-- The same by row lines. -/
theorem Env.access_ok {e : Env} {k : AccKind} {sys : Bool} {vas : List Nat} {ls : List Loc}
    (f : State → List Loc → Res) (h : e.s.locs e.c.core e.c.region k sys vas = .ok ls) :
    e.access k sys vas f = f (e.s.tlbFill e.c.core vas) ls := Env.accessBy_ok f h

/-- A block that translates, is legal and aligned, of operands that are legal, over an accumulator that is not poisoned. -/
theorem block_accepted (e : Env) (o : FieldsX) (pr : Product) (f : State → MBlock → Nat × Nat × Nat → Res) (bl ls : List Loc)
    (lim : Nat × Nat × Nat) (hf : (e.v.rs o.fb.toNat).toNat % 32 = 0)
    (hb : e.s.locs e.c.core e.c.region .load false (span (e.v.rs o.fb.toNat).toNat 32) = .ok bl)
    (t0 : State) (ht0 : t0 = e.s.tlbFill e.c.core (span (e.v.rs o.fb.toNat).toNat 32))
    (b : List Byte) (hbb : b = t0.plainLoad e.c.core bl)
    (hbad : blockBad o pr b = false) (hl : limitsOf o pr (e.v.rs o.ps.toNat) = some lim) (ho : pr = .weights → e.ownSlot o ≠ none)
    (hp : (e.v.side o.dst.toNat).poison = false) (hra : o.ra = 1 → descBad (e.v.rs o.ta.toNat) = false)
    (hrb : o.rb = 1 → descBad (e.v.rs o.tb.toNat) = false) (h10 : word8 b 0x10 % 32 = 0)
    (ha : bits (word8 b 0x18) 17 16 = 2 → word8 b 0 % 2 = 0) (h8 : bits (word8 b 0x18) 9 8 = 2 → word8 b 8 % 2 = 0)
    (va vb vc : List Nat) (hva : va = scaleSpan o (word8 b 0) (bits (word8 b 0x18) 19 18) (bits (word8 b 0x18) 17 16))
    (hvb : vb = scaleSpan o (word8 b 8) (bits (word8 b 0x18) 11 10) (bits (word8 b 0x18) 9 8))
    (hvc : vc = if o.ty = 4 ∧ pr ≠ .weights then span (word8 b 0x10) 64 else [])
    (hls : t0.locs e.c.core e.c.region .load false (va ++ vb ++ vc) = .ok ls) :
    e.block o pr f = f ((t0.tlbFill e.c.core (va ++ vb ++ vc)).wakeErrors (bl ++ ls))
      (mblockOf o e.v.sys.fmtc b ((t0.plainLoad e.c.core ls).take va.length)
        (((t0.plainLoad e.c.core ls).drop va.length).take vb.length)
        ((t0.plainLoad e.c.core ls).drop (va.length + vb.length))
        (if pr = .weights then Memory.readBytes ((e.ownSlot o).elim [] WSlot.bytes) 0 8192 else [])) lim := by
  unfold Env.block
  simp only [hf, ne_eq, not_true, if_false, Env.access_ok _ hb, ← ht0, ← hbb, hbad, hl, hp]
  have h1 : ¬ (pr = .weights ∧ (e.ownSlot o).isNone = true) := by
    rintro ⟨h, h2⟩; exact ho h (by simpa using h2)
  have h2 : ((o.ra == 1 && descBad (e.v.rs o.ta.toNat)) || (o.rb == 1 && descBad (e.v.rs o.tb.toNat))) = false := by
    by_cases h : o.ra = 1 <;> by_cases h' : o.rb = 1 <;> simp_all
  have h3 : ¬ (bits (word8 b 0x18) 17 16 = 2 ∧ ¬ word8 b 0 % 2 = 0) := fun h => h.2 (ha h.1)
  have h4 : ¬ (bits (word8 b 0x18) 9 8 = 2 ∧ ¬ word8 b 8 % 2 = 0) := fun h => h.2 (h8 h.1)
  simp only [h1, h2, h3, h4, h10, if_false, Bool.false_eq_true, not_true, ← hva, ← hvb, ← hvc, hls]
  congr 2
  cases hq : e.ownSlot o with
  | none => by_cases h : pr = .weights
            · exact absurd hq (ho h)
            · simp only [h, if_false]
  | some w => by_cases h : pr = .weights <;> simp only [h, if_true, if_false, Option.elim]

end Sys2Proof.Machine
end

