-- ==== Sys2Proof/Laws/Memory.lean ====
section
/-! SUPPORT. Memory as a canonical list: every operation keeps the form, a byte written reads back, and every other byte reads as
before. -/

namespace Sys2Proof.Machine

/-! ### The canonical form -/

/-- Every listed address lies above k. -/
def Memory.above (k : Nat) (m : Memory) : Prop := ∀ c ∈ m, k < c.1

theorem Memory.wf_cons (a : Nat) (b : Byte) (m : Memory) :
    Memory.wf ((a, b) :: m) = true ↔ b ≠ 0 ∧ Memory.above a m ∧ Memory.wf m = true := by
  induction m generalizing a b with
  | nil => simp [Memory.wf, Memory.above]
  | cons c r ih =>
    obtain ⟨a', b'⟩ := c
    simp only [Memory.wf, Bool.and_eq_true, bne_iff_ne, decide_eq_true_eq, ih, Memory.above, List.mem_cons,
      forall_eq_or_imp]
    constructor
    · rintro ⟨⟨hb, hlt⟩, hb', ha', hw⟩
      exact ⟨hb, ⟨hlt, fun c hc => hlt.trans (ha' c hc)⟩, hb', ha', hw⟩
    · rintro ⟨hb, ⟨hlt, -⟩, hb', ha', hw⟩
      exact ⟨⟨hb, hlt⟩, hb', ha', hw⟩

theorem Memory.wf_tail {c : Host.Cell} {m : Memory} (h : Memory.wf (c :: m) = true) : Memory.wf m = true :=
  ((Memory.wf_cons c.1 c.2 m).1 h).2.2

theorem Memory.above_write {j k : Nat} {x : Byte} {m : Memory} (hk : j < k) (h : Memory.above j m) :
    Memory.above j (Memory.write m k x) := by
  induction m with
  | nil => simp only [Memory.write]; split <;> simp_all [Memory.above]
  | cons c r ih =>
    obtain ⟨a, b⟩ := c
    have ha : j < a := h _ List.mem_cons_self
    have hr : Memory.above j r := fun d hd => h d (List.mem_cons_of_mem _ hd)
    simp only [Memory.write]
    split
    · split
      · exact h
      · intro d hd
        rcases List.mem_cons.1 hd with rfl | hd
        · exact hk
        · exact h d hd
    · split
      · split
        · exact hr
        · intro d hd
          rcases List.mem_cons.1 hd with rfl | hd
          · exact hk
          · exact hr d hd
      · intro d hd
        rcases List.mem_cons.1 hd with rfl | hd
        · exact ha
        · exact ih hr d hd

/-- Storing a byte keeps the canonical form. -/
theorem Memory.wf_write {m : Memory} (k : Nat) (x : Byte) (h : Memory.wf m = true) :
    Memory.wf (Memory.write m k x) = true := by
  induction m with
  | nil => simp only [Memory.write]; split <;> simp_all [Memory.wf]
  | cons c r ih =>
    obtain ⟨a, b⟩ := c
    obtain ⟨hb, ha, hr⟩ := (Memory.wf_cons a b r).1 h
    simp only [Memory.write]
    split
    next hka =>
      split
      · exact h
      next hx =>
        refine (Memory.wf_cons k x _).2 ⟨hx, ?_, h⟩
        intro d hd
        rcases List.mem_cons.1 hd with rfl | hd
        · exact hka
        · exact hka.trans (ha d hd)
    next hka =>
      split
      next hkeq =>
        subst hkeq
        split
        · exact hr
        next hx => exact (Memory.wf_cons k x r).2 ⟨hx, ha, hr⟩
      next hkne =>
        exact (Memory.wf_cons a b _).2 ⟨hb, Memory.above_write (by omega) ha, ih hr⟩

theorem Memory.wf_writeBytes {m : Memory} (k : Nat) (b : List Byte) (h : Memory.wf m = true) :
    Memory.wf (Memory.writeBytes m k b) = true := by
  induction b generalizing m k with
  | nil => exact h
  | cons x r ih => exact ih (k + 1) (Memory.wf_write k x h)

theorem Memory.wf_writeNat {m : Memory} (k n x : Nat) (h : Memory.wf m = true) :
    Memory.wf (Memory.writeNat m k n x) = true := Memory.wf_writeBytes k _ h

theorem Memory.wf_copyFrom {dst : Memory} (src : Memory) (l : List Nat) (h : Memory.wf dst = true) :
    Memory.wf (Memory.copyFrom dst src l) = true := by
  induction l generalizing dst with
  | nil => exact h
  | cons a r ih => exact ih (Memory.wf_write a _ h)

theorem Memory.wf_foldl_write {m : Memory} (ws : List (Nat × Byte)) (h : Memory.wf m = true) :
    Memory.wf (ws.foldl (fun d q => Memory.write d q.1 q.2) m) = true := by
  induction ws generalizing m with
  | nil => exact h
  | cons q r ih => exact ih (Memory.wf_write q.1 q.2 h)

/-! ### Reading after writing -/

theorem Memory.read_of_above {k : Nat} {m : Memory} (h : Memory.above k m) : Memory.read m k = 0 := by
  cases m with
  | nil => rfl
  | cons c r =>
    have hc : k < c.1 := h c List.mem_cons_self
    simp only [Memory.read]
    rw [if_neg (by omega), if_pos hc]

theorem Memory.read_write_same {m : Memory} (k : Nat) (x : Byte) (h : Memory.wf m = true) :
    Memory.read (Memory.write m k x) k = x := by
  induction m with
  | nil => simp only [Memory.write]; split <;> simp_all [Memory.read]
  | cons c r ih =>
    obtain ⟨a, b⟩ := c
    obtain ⟨hb, ha, hr⟩ := (Memory.wf_cons a b r).1 h
    simp only [Memory.write]
    split
    next hka =>
      split
      next hx =>
        subst hx
        simp only [Memory.read]
        rw [if_neg (by omega), if_pos hka]
      · simp [Memory.read]
    next hka =>
      split
      next hkeq =>
        subst hkeq
        split
        next hx => subst hx; exact Memory.read_of_above ha
        · simp [Memory.read]
      next hkne =>
        simp only [Memory.read]
        rw [if_neg (by omega), if_neg hka]
        exact ih hr

theorem Memory.read_write_other {m : Memory} {k j : Nat} (x : Byte) (h : Memory.wf m = true) (hj : j ≠ k) :
    Memory.read (Memory.write m k x) j = Memory.read m j := by
  induction m with
  | nil =>
    simp only [Memory.write]
    split
    · rfl
    · simp [Memory.read, Ne.symm hj]
  | cons c r ih =>
    obtain ⟨a, b⟩ := c
    obtain ⟨hb, ha, hr⟩ := (Memory.wf_cons a b r).1 h
    simp only [Memory.write]
    split
    next hka =>
      split
      · rfl
      next hx =>
        simp only [Memory.read]
        rw [if_neg (Ne.symm hj)]
        split
        next hlt => rw [if_neg (by omega), if_pos (by omega)]
        · rfl
    next hka =>
      split
      next hkeq =>
        subst hkeq
        split
        next hx =>
          simp only [Memory.read]
          rw [if_neg (Ne.symm hj)]
          split
          next hlt => exact Memory.read_of_above (fun d hd => by have := ha d hd; omega)
          · rfl
        · simp only [Memory.read]
          rw [if_neg (Ne.symm hj), if_neg (Ne.symm hj)]
      next hkne => simp only [Memory.read, ih hr]

/-- A byte outside those stored reads as before. -/
theorem Memory.read_writeBytes_other {m : Memory} {k j : Nat} {b : List Byte} (h : Memory.wf m = true)
    (hj : j < k ∨ k + b.length ≤ j) : Memory.read (Memory.writeBytes m k b) j = Memory.read m j := by
  induction b generalizing m k with
  | nil => rfl
  | cons x r ih =>
    simp only [List.length_cons] at hj
    rw [Memory.writeBytes, ih (Memory.wf_write k x h) (by omega), Memory.read_write_other x h (by omega)]

/-- The bytes stored read back. -/
theorem Memory.readBytes_writeBytes {m : Memory} (k : Nat) (b : List Byte) (h : Memory.wf m = true) :
    Memory.readBytes (Memory.writeBytes m k b) k b.length = b := by
  induction b generalizing m k with
  | nil => rfl
  | cons x r ih =>
    simp only [List.length_cons, Memory.readBytes, Memory.writeBytes]
    rw [ih (k + 1) (Memory.wf_write k x h),
      Memory.read_writeBytes_other (Memory.wf_write k x h) (Or.inl (Nat.lt_succ_self k)), Memory.read_write_same k x h]

/-! ### Byte strings as numbers -/

@[simp] theorem toBytes_length (n x : Nat) : (toBytes n x).length = n := by
  induction n generalizing x with
  | zero => rfl
  | succ n ih => simp [toBytes, ih]

theorem ofBytes_toBytes (n x : Nat) : ofBytes (toBytes n x) = x % 256 ^ n := by
  induction n generalizing x with
  | zero => simp [toBytes, ofBytes, Nat.mod_one]
  | succ n ih =>
    have h : (BitVec.ofNat 8 x).toNat = x % 256 := by simp
    rw [toBytes, ofBytes, ih, h, pow_succ', Nat.mod_mul]

/-- A number stored reads back, cut to its bytes. -/
theorem Memory.readNat_writeNat {m : Memory} (k n x : Nat) (h : Memory.wf m = true) :
    Memory.readNat (Memory.writeNat m k n x) k n = x % 256 ^ n := by
  have := Memory.readBytes_writeBytes k (toBytes n x) h
  rw [toBytes_length] at this
  rw [Memory.readNat, Memory.writeNat, this, ofBytes_toBytes]

/-! ### The state's own writes -/

@[simp] theorem State.wakeOn_g (s : State) (core : Option Nat) (pas : List Nat) : (s.wakeOn core pas).g = s.g := rfl

@[simp] theorem State.noted_g (s : State) (pas : List Nat) : (s.noted pas).g = s.g := rfl

/-- What a write of G leaves in G. -/
theorem State.gWrite_g (s : State) (ws : List (Nat × Byte)) :
    (s.gWrite ws).g = ws.foldl (fun m q => Memory.write m q.1 q.2) s.g := by
  unfold State.gWrite
  split
  next h => rw [List.isEmpty_iff.1 h]; rfl
  · rfl

/-- Every write of G keeps its canonical form. -/
theorem State.memoryOk_gWrite {s : State} (ws : List (Nat × Byte)) (h : Memory.wf s.g = true) :
    Memory.wf (s.gWrite ws).g = true := by
  rw [State.gWrite_g]; exact Memory.wf_foldl_write ws h

theorem State.memoryOk_gWriteAt {s : State} (pa : Nat) (b : List Byte) (h : Memory.wf s.g = true) :
    Memory.wf (s.gWriteAt pa b).g = true := State.memoryOk_gWrite _ h

theorem State.memoryOk_publish {s : State} (core : Nat) (h : Memory.wf s.g = true) :
    Memory.wf (s.publish core).g = true := State.memoryOk_gWrite _ (by simpa using h)

@[simp] theorem State.refresh_g (s : State) (core : Nat) : (s.refresh core).g = s.g := rfl

end Sys2Proof.Machine
end

