-- ==== Sys2Proof/Laws/Shared.lean ====
section
/-! SUPPORT. What the shared operations of the memory's agents, of the LLC and of the matrix array can do, said once for each. -/

namespace Sys2Proof.Machine

/-! ### The guard of the reel (R382) -/

/-- Where nothing is guarded, a store meets no guard. -/
theorem State.reelFault_unguarded {s : State} (h : s.dbg.guarded = []) (va : Nat) : s.reelFault va = s := by
  simp [State.reelFault, State.guardedAt, h, look]

/-- An access that translates opens no page. -/
theorem State.openFor_ok {s : State} {core region : Nat} {k : AccKind} {vas : List Nat} {ls : List Loc}
    (h : s.locs core region k false vas = .ok ls) : s.openFor core region k vas = s := by
  unfold State.openFor
  cases vas.length <;> simp [State.opened, h]

/-- One that meets a fatal fault opens none. -/
theorem State.openFor_fatal {s : State} {core region : Nat} {k : AccKind} {vas : List Nat} {f : MemFault}
    (h : s.locs core region k false vas = .error f) (hf : f.replayable = false) : s.openFor core region k vas = s := by
  unfold State.openFor
  cases vas.length <;> simp [State.opened, h, State.guardFault, hf]

/-- Nor does any access where nothing is guarded. -/
theorem State.openFor_unguarded {s : State} (h : s.dbg.guarded = []) (core region : Nat) (k : AccKind) (vas : List Nat) :
    s.openFor core region k vas = s := by
  unfold State.openFor
  suffices ∀ n, s.opened core region k vas n = s from this _
  intro n
  induction n with
  | zero => rfl
  | succ n ih =>
    unfold State.opened
    split
    · rfl
    · rw [State.reelFault_unguarded h, ih, ite_self]

/-! ### The orientation of sectors (R196) -/

theorem mem_insertNat {a b : Nat} {l : List Nat} : b ∈ insertNat a l ↔ b = a ∨ b ∈ l := by
  induction l with
  | nil => simp [insertNat]
  | cons c r ih =>
    unfold insertNat
    split
    · simp
    · split
      · next h => subst h; simp
      · simp only [List.mem_cons, ih]; tauto

/-- A sector serves column lines after it was met by an access by column lines, and where it did before and was not met. -/
theorem State.mem_turned {s : State} {col : Bool} {ks : List Nat} {k : Nat} :
    k ∈ (s.turned col ks).cols ↔ if k ∈ ks then col = true else k ∈ s.cols := by
  unfold State.turned
  cases col
  · by_cases h : k ∈ ks <;> simp [h]
  · simp only [if_true]
    generalize s.cols = l
    induction ks generalizing l with
    | nil => simp
    | cons a r ih =>
      rw [List.foldl_cons, ih]
      by_cases h : k ∈ r <;> by_cases h2 : k = a <;> simp [h, h2, mem_insertNat]

/-- An access leaves the translations to the TLBs and the orientation to its sectors. -/
theorem State.tlbFill1_cols (s : State) (core va : Nat) : (s.tlbFill1 core va).cols = s.cols := by
  unfold State.tlbFill1
  split
  · rfl
  · split <;> rfl
theorem State.tlbFillBy_cols (s : State) (core : Nat) (col : Bool) (vas : List Nat) :
    (s.tlbFillBy core col vas).cols = (s.serve core col vas).cols := by
  unfold State.tlbFillBy
  generalize (vas.map (fun va => va / 4096 * 4096)).dedup = l
  generalize s.serve core col vas = t
  induction l generalizing t with
  | nil => rfl
  | cons a r ih => rw [List.foldl_cons, ih, State.tlbFill1_cols]

/-! ### The runs of the matrix array (R265, R266) -/

theorem twoRuns_first {ty : BitVec 3} {up : Nat → Nat → Nat → Nat} {cs ds : List ArrayCell}
    (h : checksOk ty (observed ty (up 0) cs) = true) : twoRuns ty up cs ds = (observed ty (up 0) cs, false) := by
  simp [twoRuns, h]
theorem twoRuns_second {ty : BitVec 3} {up : Nat → Nat → Nat → Nat} {cs ds : List ArrayCell}
    (h : checksOk ty (observed ty (up 0) cs) = false) :
    twoRuns ty up cs ds = (observed ty (up 1) ds, !checksOk ty (observed ty (up 1) ds)) := by
  simp [twoRuns, h]

/-- What the array keeps of an element holds for one that begins anew: nothing at slice 0. -/
@[simp] theorem SliceRun.heldCell_zero (run : SliceRun) (i c : Nat) : run.heldCell 0 i c = none := rfl

/-- An integer as an exact value is itself again. -/
theorem wholeValue_intVal (z : Int) : wholeValue (intVal z) = z := by
  unfold intVal wholeValue
  rcases lt_or_ge z 0 with h | h
  · simp [h, abs_of_neg h]
  · simp [not_lt.mpr h, abs_of_nonneg h]

/-- The rerun of a product that was never stopped forms the elements of the first run (R266, R268). -/
theorem SliceRun.again_fresh (run : SliceRun) (o : FieldsX) (pr : Product) (ta tb : List Byte) (hi : Nat) :
    (run.cells o pr ta tb 0 hi).map (run.again o) = run.cells o pr ta tb 0 hi := by
  unfold SliceRun.cells
  simp only [List.map_map]
  apply List.map_congr_left
  intro i _
  simp only [Function.comp, SliceRun.heldCell_zero, Option.getD_none, Bool.false_or, List.nil_append]
  split
  · simp [SliceRun.again]
  split
  · simp [SliceRun.again]
  split
  · next h =>
    simp only [SliceRun.again, h, if_true, intDot, List.foldl_map, Function.comp, wholeValue_intVal, ite_self]
  · next h =>
    simp only [SliceRun.again, h, if_false]
    split <;> rfl

/-! ### Services, and transfers that end (R217, R310, R311, R358) -/

/-- What a reply comes to: the service's answer, else FAULT once its time has come, else nothing yet. -/
theorem State.serviceReply_cases (s : State) (c : Crew) (svc : Nat) (arg : Word) (imm since : Nat) :
    (∃ n, (s.service c svc arg imm).2 = some n ∧ s.serviceReply c svc arg imm since = some ((s.service c svc arg imm).1, n)) ∨
    ((s.service c svc arg imm).2 = none ∧
      s.serviceReply c svc arg imm since = if since + syscBound ≤ s.now then some (s, 3) else none) := by
  unfold State.serviceReply
  rcases h : s.service c svc arg imm with ⟨t, _ | n⟩
  · exact .inr ⟨rfl, rfl⟩
  · exact .inl ⟨n, rfl, rfl⟩

/-- A number that is set is the one that stands. -/
theorem seqOf_setSeq (k : BitVec 10) (n : Nat) (l : List (BitVec 10 × Nat)) : seqOf k (setSeq k n l) = n := by
  induction l with
  | nil => simp [setSeq, seqOf]
  | cons a l ih => by_cases h : a.1 = k <;> simp [setSeq, seqOf, h, ih]
/-- Passing over numbers goes up. -/
theorem State.le_seqNext (s : State) (src : BitVec 10) (fuel n : Nat) : n ≤ s.seqNext src fuel n := by
  induction fuel generalizing n with
  | zero => exact le_rfl
  | succ f ih =>
    unfold State.seqNext
    split
    · exact (Nat.le_succ n).trans (ih _)
    · exact le_rfl
/-- The turn of an ordered transfer that has ended in its turn is over. -/
theorem State.seqDone_turn {s : State} {h : XferHdr} (ho : h.cls = .ord) (hs : h.seq = seqOf h.src s.fab.seqIn) :
    h.seq < seqOf h.src (s.seqDone h).fab.seqIn := by
  unfold State.seqDone
  rw [if_neg (by simpa using ho), if_pos hs]
  simp only [seqOf_setSeq]
  exact s.le_seqNext h.src _ (h.seq + 1)

/-- A transfer that has ended without success does nothing more, whatever of it still comes. -/
theorem State.landPiece_failed {s : State} {h : XferHdr} {x : Incoming} (hx : s.incoming? (xferKey h) = some x) (hf : x.finished = true)
    (he : x.failed = true) (off : Nat) (data : List Byte) : s.landPiece h off data = (s, false) := by
  simp [State.landPiece, hx, hf, he]
/-- A transfer whose time has passed, or that has ended, does not complete. -/
theorem State.mayFinish_over {s : State} {x : Incoming} (h : x.finished = true ∨ x.late s.now = true) : s.mayFinish x = false := by
  rcases h with h | h <;> simp [State.mayFinish, h]

/-! ### The links and the bridge (R304, R375) -/

/-- Round robin sends every packet of both classes once. -/
theorem roundRobin_perm (a b n : Nat) (l m : List Packet) : (roundRobin a b n l m).Perm (l ++ m) := by
  induction n generalizing l m with
  | zero => exact List.Perm.refl _
  | succ n ih =>
    unfold roundRobin
    refine (List.Perm.append_left _ (ih _ _)).trans ?_
    have h : (l.take (max 1 a) ++ m.take (max 1 b) ++ (l.drop (max 1 a) ++ m.drop (max 1 b))).Perm
        ((l.take (max 1 a) ++ l.drop (max 1 a)) ++ (m.take (max 1 b) ++ m.drop (max 1 b))) := by
      simp only [List.append_assoc]
      refine List.Perm.append_left _ ?_
      simp only [← List.append_assoc]
      exact List.Perm.append_right _ List.perm_append_comm
    simpa only [List.take_append_drop] using h
/-- The classes of a link send each of its packets once, and no other. -/
theorem classOrder_perm (w : Nat × Nat) (l : List Packet) : (classOrder w l).Perm l := by
  unfold classOrder
  have h (p : Packet → Bool) (x : List Packet) : (x.filter (fun q => !p q) ++ x.filter p).Perm x :=
    List.perm_append_comm.trans (List.filter_append_perm p x)
  refine (List.Perm.append_left _ ((roundRobin_perm _ _ _ _ _).trans (h (fun p => p.lossy) _))).trans ?_
  exact List.filter_append_perm (fun p => p.control) l
/-- What leaves is what was held. -/
theorem State.mem_order {s : State} {p : Packet} : p ∈ s.order ↔ p ∈ s.fab.held := by
  unfold State.order
  simp only [List.mem_flatMap, (classOrder_perm _ _).mem_iff, List.mem_dedup, List.mem_map, List.mem_filter, beq_iff_eq]
  constructor
  · rintro ⟨_, _, h, _⟩
    exact h
  · exact fun h => ⟨s.linkOf p, ⟨p, h, rfl⟩, h, rfl⟩

/-- A packet that queue 63 keeps waiting has changed nothing but that guarded pages are open. -/
theorem State.bridgePacket_held {s : State} {us : List (List Byte)} (h : (s.bridgePacket us).2 = true) :
    (s.bridgePacket us).1 = s.openFor noCore 0 .store (bridgePlaces (s.queue 63) us.length) := by
  unfold State.bridgePacket at *
  simp only at *
  split at h
  · cases h
  · split at h
    · cases h
    · rename_i h1 h2
      simp only [h1, h2, if_false] at *
      split at h
      · rename_i f hf
        simp only [hf] at *
        split at h
        · rename_i h3
          rw [if_pos h3]
        · cases h
      · cases h

/-- A product that has not been re-issued ends under the views of its crew. -/
theorem State.under_fresh {s : State} {r : PathRef} (f : State → State) (h : (s.path? r).bind (fun p => p.resolved) = none) :
    s.under r f = f s := by
  unfold State.under
  rw [h]
  split <;> simp_all

end Sys2Proof.Machine
end

