-- ==== Sys2Proof/Tests/Slice0.lean ====
section
/-! SUPPORT. The model's own tests: well-formedness, decoding of words written out from the encoding tables, single steps with
results worked out from the rules, and witnesses that the hypotheses of the statements can be met. -/

namespace Sys2Proof.Tests

open Sys2Proof.Machine

set_option maxRecDepth 100000

/-! ### Small states -/

/-- Fields that are all zero. -/
def zR : FieldsR := { ty := 0, pred := 0, dst := 0, sa := 0, sb := 0, sc := 0, bs := 0, bv := 0, bpos := 0, rm := 0, md := 0 }
def zI : FieldsI := { ty := 0, pred := 0, dst := 0, sa := 0, imm := 0 }
def zM : FieldsM := { ty := 0, pred := 0, dst := 0, base := 0, scope := 0, ord := 0, md := 0, off := 0 }
def zB : FieldsB := { ty := 0, pred := 0, d := 0, e := 0, off := 0 }
def zJ : FieldsBJ := { ty := 0, pred := 0, d := 0, toff := 0, joff := 0 }
def zX : FieldsX :=
  { ty := 0, pred := 0, dst := 0, fb := 0, ta := 0, tb := 0, ps := 0, ra := 0, rb := 0, mode := 0, md := 0 }
def zS : FieldsS := { ty := 0, pred := 0, dst := 0, sys := 0, ss := 0, imm := 0 }
def zH : Half := { cop := 0, ct := 0, cd := 0, ca := 0, cb := 0 }

/-- A product of FP64 by the block of zeros at s8, all in place, with limits 16 for M, N and K in s0. -/
def mX : FieldsX := { zX with fb := 8, ps := 7 }
/-- The same with the first operand on a package. -/
def rX : FieldsX := { mX with ra := 1, ta := 1 }
/-- A run of that product with some slices of A in place. -/
def aRun (a : BitVec 4) : SliceRun :=
  { id := 5, base := 0, mapA := a, mapB := 0, blk := mblockOf rX 0 [] [] [] [] [], lim := (16, 16, 16), ps := 0, opA := [], opB := [],
    acc0 := [], held := [], since := 0 }

/-- The crew that runs a placed word, and its path. -/
def me : PathRef := { crew := 0, sel := .single }

/-- A package with one crew inside a clause of one word, in focus. Its scalars but s2 are 0. -/
def demo : State := State.reset.withFetchWord 64 0

/-- The same with other scalars. -/
def withS (s : State) (n : Nat) (x : Word) : State := s.updCrew 0 (fun c => c.ws n x)
/-- The same with another mask. -/
def withK (s : State) (n : Nat) (x : Mask) : State := s.updCrew 0 (fun c => c.wk n x)
/-- The same with a change of the crew or of its region. -/
def withC (s : State) (f : Crew → Crew) : State := s.updCrew 0 f
def withG (s : State) (f : Region → Region) : State := s.updRegion 1 f
/-- The same with the path's clause boundary state changed. -/
def withP (s : State) (f : Path → Path) : State := s.updPath me f

/-- Tables at 0x1000 to 0x3FFF that map the first 1 GiB one to one, readable, writable and executable (R361, R362). -/
def mapped (s : State) : State :=
  { s with
    g := Memory.writeNat (Memory.writeNat (Memory.writeNat s.g 0x1000 8 0x2001) 0x2000 8 0x3001) 0x3000 8 0x79
    firm := { s.firm with ptroot := 0x1000 } }

/-- A word of memory, as core 0 sees it after a refresh. -/
def poke (s : State) (a x : Nat) : State := { s with g := Memory.writeNat s.g a 8 x }.refresh 0

/-- Is a word taken in a state, and does what it sees meet a condition? -/
def meets (s : State) (i : Instr) (p : Env → Bool) : Bool := (s.taken i).any p
/-- Is each of a list of words taken? -/
def allTaken (s : State) (l : List Instr) : Bool := l.all (fun i => (s.taken i).isSome)
/-- Do all hold? -/
def allOf (l : List Bool) : Bool := l.all id
/-- Do bytes at addresses translate to the memory bytes of the same numbers? -/
def flat (s : State) (e : Env) (k : AccKind) (sys : Bool) (vas : List Nat) : Bool :=
  match s.locs e.c.core e.c.region k sys vas with
  | .ok ls => ls == vas.map Loc.mem
  | .error _ => false

theorem witness_scalar_words : allTaken demo [.nop, .mov zR, .add zR, .sub zR, .mul zR, .and zR, .or zR, .xor zR, .not zR,
    .shl zR, .shr zR, .sar zR, .sel zR, .min zR, .max zR, .cmp zR, .mulh zR, .div zR, .rem zR, .rot zR, .popc zR, .clz zR,
    .bfe zR, .bfi zR, .movi zI, .movh zI, .adda zI, .srd zS, .tkrd zS] = true := by decide

theorem witness_vector_words : allTaken demo [.vadd zR, .vsub zR, .vmul zR, .vmulh zR, .vmad zR, .vand zR, .vor zR, .vxor zR,
    .vnot zR, .vshl zR, .vshr zR, .vsar zR, .vmin zR, .vmax zR, .vabs zR, .vclz zR, .vpopc zR, .vbfe zR, .vbfi zR, .vmov zR,
    .vsel zR, .vcmp zR, .vmovs zI, .vfadd zR, .vfsub zR, .vfmul zR, .vfma zR, .vfmin zR, .vfmax zR, .vfabs zR, .vfneg zR,
    .vfrnd zR, .vfcls zR, .vfcmp zR, .vrcp zR, .vrsq zR, .vsqrt zR, .vexp2 zR, .vlog2 zR, .vsin zR, .vcos zR, .vfcvt zR,
    .vunpk zR, .vpack zR, .vcbtEnc zR, .vcbtDec zR, .vcbtMov zR, .vqhist zR, .vqnt zR, .pairWord { hi := zH, lo := zH },
    .vshuf zR, .vrot zR, .vbcst zR, .vbfly zR, .vrdc zR, .vscan zR, .vext zR, .vins zR, .vballot zR, .vvote zR, .kand zR,
    .kor zR, .kxor zR, .knot zR, .kmov zR, .kmovS zR, .exmrd zR, .exmwr zR] = true := by decide

/-- The values of which the special cases of VSIN, VCOS, VEXP2 and VLOG2 speak: 1/2, 1/4, -3 and 8 (R173). -/
theorem witness_turns : ((1 : ℕ) : ℚ) * (2 : ℚ) ^ (-1 : ℤ) = ((1 : ℕ) : ℚ) / 2 ∧ ((1 : ℕ) : ℚ) * (2 : ℚ) ^ (-2 : ℤ) = (2 * ((0 : ℕ) : ℚ) + 1) / 4 ∧
    -(((3 : ℕ) : ℚ) * (2 : ℚ) ^ (0 : ℤ)) = ((-3 : ℤ) : ℚ) ∧ ((8 : ℕ) : ℚ) * (2 : ℚ) ^ (0 : ℤ) = (2 : ℚ) ^ (3 : ℤ) := by norm_num
theorem test_special_cases : ((trigF false 0 (fp32.decode 0xBF000000)).1, (exp2F 1 (fp32.decode 0xC0400000)).1, (sqrtF 0 (fp32.decode 0xBF800000)).1) =
    (0x80000000, 0x3E000000, 0x7FC00000) := by decide

theorem witness_distribution_words : allTaken demo [.dadd zR, .dsub zR, .dmul zR, .dmax zR, .dmin zR, .dmix zR, .daff zR,
    .dfn zR, .dcond zR, .dpt zR, .dset zR, .dmom zR, .dqnt zR, .dcdf zR, .dtagSet zR, .dtagOr zR, .dtgrd zR,
    .dtagNew zR] = true := by decide

/-! ### The step, decoding, reset -/

/-- Whether a step answers a next state that meets a condition. -/
def nextIs (o : Host.Outcome State Fault Refusal) (p : State → Bool) : Bool :=
  match o with
  | .next t => p t
  | _ => false

theorem witness_step : allOf [demo.dbg.stopped == false, demo.focus == some me,
    (demo.path? me).any (fun p => p.words[p.idx]? == some 0 && decodeWord (hdrPair p.hdr p.idx) 0 == some .nop),
    ({ demo with focus := none, inbox := [.eret] } : State).inbox == [.eret],
    { demo with focus := none }.inbox == []] = true := by decide
theorem witness_encode : (encode .nop, Instr.nop.wf) = (some (false, 0), true) := by decide
theorem witness_memory_form : demo.memoryOk ∧ demo.windowsOk :=
  ⟨⟨by decide, by decide⟩, (by decide : ∀ c ∈ demo.crews, Memory.wf c.urs = true)⟩
theorem witness_memory_step : nextIs (step demo) (fun _ => true) = true := by decide
theorem witness_scalar_file : (demo.crew? 0).any (fun c => decide (0 < c.s.length)) = true := by decide
/-- A word in flight that reads and writes nothing. -/
def idleFlight : Flight := { reads := [], writes := [], olds := [] }
theorem witness_swr : allOf [meets demo (.swr { zS with sys := 0x10 }) (fun e => e.p.flights == []),
    meets (withP demo (fun p => { p with flights := [idleFlight] })) (.swr { zS with sys := 0x10 }) (fun e => e.p.flights != []),
    meets (withP demo (fun p => { p with flights := [idleFlight] })) (.swr { zS with sys := 0x14 }) (fun e => e.p.flights != []),
    meets (withP demo (fun p => { p with flights := [idleFlight] })) (.swr { zS with sys := 0x15 }) (fun _ => true),
    meets demo (.srd zS) (fun _ => true)] = true := by decide
theorem witness_mask_bits : (demo.crew? 0).any (fun c => decide (7 < c.k.length)) = true := by decide
theorem witness_active_lanes : Memory.wf [] = true ∧ elem32.count * elem32.bytes ≤ elem32.kind.laneBytes := by decide
theorem witness_tags : allOf [meets demo (.dtagNew zR) (fun e => (demo.region? e.c.region).any (fun g => g.rcb.taga == 0)),
    (let s := withG demo (fun g => { g with rcb := { g.rcb with taga := 0x80000000 } })
     meets s (.dtagNew zR) (fun e => (s.region? e.c.region).any (fun g => g.rcb.taga.getLsbD 31 &&
      (List.range 31).all (fun j => !g.rcb.taga.getLsbD j)))),
    (let s := withG demo (fun g => { g with rcb := { g.rcb with taga := 1 } })
     meets s (.dtagNew zR) (fun e => (s.region? e.c.region).any (fun g => g.rcb.taga.getLsbD 0)))] = true := by decide

/-! ### Control -/

theorem witness_paths : allOf [
    (withP demo (fun p => { p with hdr := wordHeader ||| 0x10000000000000 })).path? me |>.any (fun p => decide (p.idx < hdrCount p.hdr)),
    demo.path? me |>.any (fun p => p.side.frames == [] && !decide (p.idx < hdrCount p.hdr))] = true := by decide

/-- A trap of the path of a small state. -/
def aTrap : Trap := { slate := 0, cls := 1, cause := 1, val := 0, code := 0, word := 0, inst := 0, resume := .word, batch := none, bar := none }

theorem witness_transfers : allOf [allTaken demo [.bra zB, .join zI, .call zB],
    ([0, 3, 5] : List (BitVec 3)).all (fun t => meets demo (.brc { zB with ty := t, d := 3, e := 4 }) (fun _ => true)),
    meets (withS demo 3 1) (.brc { zB with ty := 1, d := 3, e := 4 }) (fun e => e.v.rs 3 != e.v.rs 4),
    meets (withS demo 3 (-1)) (.brc { zB with ty := 2, d := 3, e := 4 }) (fun e => decide ((e.v.rs 3).toInt < (e.v.rs 4).toInt)),
    meets (withS demo 4 1) (.brc { zB with ty := 4, d := 3, e := 4 }) (fun e => decide (e.v.rs 3 < e.v.rs 4)),
    meets (withS demo 3 1) (.brc { zB with ty := 0, d := 3, e := 4 }) (fun e => e.v.rs 3 != e.v.rs 4),
    meets demo (.loop { zB with d := 3 }) (fun e => e.v.rs 3 - 1 != 0),
    meets (withS demo 3 1) (.loop { zB with d := 3 }) (fun e => e.v.rs 3 - 1 == 0),
    meets (withS demo 3 8) (.ret { zR with sa := 3 }) (fun e => (e.v.rs 3).toNat % 8 == 0),
    meets (withS demo 3 8) (.jmpi { zR with sa := 3 }) (fun e => (e.v.rs 3).toNat % 8 == 0),
    meets (withS demo 3 4) (.ret { zR with sa := 3 }) (fun e => (e.v.rs 3).toNat % 8 != 0),
    meets (withS demo 3 4) (.jmpi { zR with sa := 3 }) (fun e => (e.v.rs 3).toNat % 8 != 0)] = true := by decide

/-- The join of a divergence, and the frame of the peers of a split crew. -/
def aFrame (d : Nat) (j : Word) : Frame := { div := d, join := j, outer := BitVec.allOnes 64 }
/-- A split crew, the word on the taken peer, which has entries on its stack; the other stands at its join or not. -/
def splitDemo (entries : Nat) (joined : Bool := false) (sel : PathSel := .taken) : State :=
  { withC demo (fun c => match c.paths with
      | .one p =>
        let x : Side := { p.side with exm := 1, members := 1, frames := [aFrame 8 0x4000, aFrame 9 0x8000] }
        let a : Path := { p with side := { p.side with exm := 0xFF, members := 0xFF, frames := [aFrame 9 0x8000] }
                                 stack := List.replicate entries x }
        let b : Path := { p with side := { p.side with exm := 0xFF00, members := 0xFF00, frames := [aFrame 9 0x8000] }
                                 wait := if joined then .atJoin else .none }
        { c with paths := if sel = .taken then .two (some a) (some b) else .two (some b) (some a) }
      | _ => c) with
    focus := some { crew := 0, sel := sel } }
/-- The taken peer runs a side of a nested divergence, with the other side on its stack. -/
def nestedDemo : State :=
  withC (splitDemo 0) (fun c => c.updPath .taken (fun p =>
    { p with side := { p.side with exm := 0xF, members := 0xF, frames := [aFrame 8 0x4000, aFrame 9 0x8000] }
             stack := [{ p.side with exm := 0xF0, members := 0xF0, pc := 0x40, frames := [aFrame 8 0x4000, aFrame 9 0x8000] }] }))
/-- A path goes on beside another peer. -/
theorem witness_finish : ((splitDemo 0).crew? 0).any (fun c => (c.path? .notTaken).isSome && (c.path? .taken).any (fun p =>
    p.cont.isNone && p.side.frames.all (fun f => f.join != p.nextClause))) = true := by decide
/-- The word's mask is lane 0; its target and its join. -/
def brvAt (t j : BitVec 20) : Instr := .brv { zJ with d := 1, toff := t, joff := j }
/-- Lane 0 is in k1. -/
def laneK1 (s : State) : State := withK s 1 1

theorem witness_branches : allOf [meets demo (.brv zJ) (fun e => e.v.rk 0 == BitVec.allOnes 64),
    meets demo (.brv { zJ with d := 1 }) (fun e => e.v.rk 1 == 0),
    meets (laneK1 demo) (brvAt 16 32) (fun e => e.c.isSingle && e.v.rk 1 == 1),
    meets (laneK1 demo) (brvAt 2 2) (fun e => e.c.isSingle && e.p.nextClause == e.p.side.pc + 16),
    meets (laneK1 (splitDemo 15)) (brvAt 16 32) (fun e => !e.c.isSingle && e.c.entries == 15),
    meets (laneK1 (splitDemo 0)) (brvAt 16 16) (fun e => !e.c.isSingle && e.p.stack == [] && e.p.side.frames != [] &&
      e.p.nextClause != e.p.side.pc + 128),
    meets (laneK1 (splitDemo 0)) (brvAt 2 2) (fun e => e.p.side.frames == [aFrame 9 0x8000] && e.p.nextClause == e.p.side.pc + 16),
    meets (withC (laneK1 (splitDemo 16)) (fun c => { c with views := { v := 0, w := 0, t := 0, a := 0, d := 0 } })) (brvAt 16 32) (fun e =>
      e.c.entries == 16 && !e.v.mapsSpill && decide (0 < e.c.win) && Memory.wf e.c.urs),
    meets (withC (laneK1 (splitDemo 16)) (fun c => { c with views := { v := 0x1000F0, w := 0, t := 0, a := 0, d := 0 } })) (brvAt 16 32) (fun e =>
      e.c.entries == 16 && e.v.mapsSpill),
    meets (laneK1 (splitDemo 127)) (brvAt 16 32) (fun e => e.c.entries == 127),
    meets (laneK1 (splitDemo 128)) (brvAt 16 32) (fun e => e.c.entries == 128)] = true := by decide
/-- The crew's path, or a peer, is its handler path. -/
def handledBy (k : PathSel) (s : State) : State := withC s (fun c => { c with handler := some k })
theorem witness_handlers : allOf [
    ([32, 2] : List (BitVec 20)).all (fun j => meets (laneK1 (handledBy .single demo)) (brvAt (if j = 2 then 2 else 16) j) (fun e =>
      e.c.isSingle && e.c.handler == some .single)),
    ([.taken, .notTaken] : List PathSel).all (fun k => ([true, false] : List Bool).all (fun j =>
      meets (handledBy k (splitDemo 0 j)) (.exit zI) (fun e => e.r.sel == .taken && e.c.handler == some k)))] = true := by decide
/-- No trap is held in a crew. -/
def noneHeld (c : Crew) : Bool := c.allPaths.all (fun q => match q.2.wait with | .held _ => false | _ => true)
theorem witness_exit : allOf [
    meets (laneK1 demo) (.exit { zI with pred := 1 }) (fun e => e.c.isSingle && e.v.rk 1 == 1 && noneHeld e.c),
    meets demo (.exit zI) (fun e => e.c.isSingle && e.p.side.frames == [] && noneHeld e.c),
    meets nestedDemo (.exit zI) (fun e => noneHeld e.c && (e.p.side.frames.map (fun f => f.div)) == [8, 9] &&
      e.p.stack.all (fun y => y.inDiv 8 && !y.reached && y.pc == 0x40) && e.p.stack.length == 1 &&
      e.c.live &&& ~~~e.p.side.exm &&& ~~~e.p.side.members != 0),
    ([.taken, .notTaken] : List PathSel).all (fun k => ([true, false] : List Bool).all (fun j =>
      meets (splitDemo 0 j k) (.exit zI) (fun e => noneHeld e.c && e.p.side.frames == [aFrame 9 0x8000] &&
        (e.c.allPaths.any (fun q => q.1 != e.r.sel && (q.2.wait == .atJoin) == j)) &&
        e.c.live &&& ~~~e.p.side.exm &&& ~~~e.p.side.members != 0)))] = true := by decide

/-- The taken peer runs the inner side of two nested divergences, whose JOIN is the end of its clause; the other inner side waits
there, or runs on, and a side of the outer one has not reached its own. -/
def joining (waits : Bool) (s : State) : State :=
  { withC { s with stamp := 10 } (fun c => match c.paths with
      | .one p =>
        let inner : List Frame := [aFrame 8 p.nextClause, aFrame 7 0x5000, aFrame 9 0x8000]
        let x : Side := { p.side with exm := 0xF0, members := 0xF0, pc := if waits then p.nextClause else 0x40, frames := inner
                                      reached := waits, pushed := 2 }
        let z : Side := { p.side with exm := 0xF00, members := 0xF00, pc := 0x80, frames := [aFrame 7 0x5000, aFrame 9 0x8000]
                                      pushed := 1 }
        { c with paths := .two (some { p with side := { p.side with exm := 0xF, members := 0xF, frames := inner }, stack := [x, z] })
                            (some { p with side := { p.side with frames := [aFrame 9 0x8000] } }) }
      | _ => c) with
    focus := some { crew := 0, sel := .taken } }
/-- Is the word a PAUSE whose clause ends as joining has it? -/
def joinsAs (waits : Bool) (s : State) (i : Instr) : Bool :=
  meets (joining waits s) i (fun e => e.p.side.frames == [aFrame 8 e.p.nextClause, aFrame 7 0x5000, aFrame 9 0x8000] &&
    (match e.p.stack with
     | [x, z] => !z.inDiv 8 && !z.reached && z.frames.all (fun f => f.join != z.pc) && e.p.nextClause != 0x5000 &&
         (if waits then x.waitsAt 8
          else x.inDiv 8 && !x.reached && x.frames.all (fun f => f.join != x.pc) && decide (z.pushed < x.pushed ∧ x.pushed < 10))
     | _ => false))
theorem witness_pauses_at_join : allOf ([true, false].map (fun w => joinsAs w demo (.pause zI) &&
    joinsAs w (mapped demo) (.pauseW { zI with sa := 3 }) &&
    meets (joining w (mapped demo)) (.pauseW { zI with sa := 3 }) (fun e => (e.s.watched e.c.core (e.v.rs 3).toNat).isSome))) = true := by
  decide
theorem witness_pauses : allOf [meets demo (.pause zI) (fun e => e.p.side.frames == [] && e.p.stack == []),
    meets (mapped demo) (.pauseW { zI with sa := 3 }) (fun e => (e.s.watched 0 (e.v.rs 3).toNat).isSome),
    meets demo (.pauseW { zI with sa := 3 }) (fun e => (e.s.watched 0 (e.v.rs 3).toNat).isNone),
    (let s := withP demo (fun p => { p with stack := [{ p.side with pc := 64 }] })
     meets s (.pause zI) (fun e => e.p.stack.length == 1 && e.p.stack.all (fun x => !x.reached && x.frames == []))),
    (let s := withP (mapped demo) (fun p => { p with stack := [{ p.side with pc := 64 }] })
     meets s (.pauseW { zI with sa := 3 }) (fun e => (e.s.watched 0 (e.v.rs 3).toNat).isSome && e.p.stack.length == 1 &&
       e.p.stack.all (fun x => !x.reached && x.frames == []))),
    (withP demo (fun p => { p with wait := .paused (some 0) (some 0) })).path? me |>.any (fun p =>
      p.wait == .paused (some 0) (some 0)),
    ([(0, 1), (63, 1)] : List (Nat × Byte)).all (fun q => q.1 / 64 == 0), ([(64, 1)] : List (Nat × Byte)).all (fun q => q.1 / 64 != 0),
    (withP demo (fun p => { p with lowUntil := some 0 })).path? me |>.any (fun p => p.lowUntil == some 0),
    (withP demo (fun p => { p with wait := .paused none none })).path? me |>.any (fun p => p.wait == .paused none none),
    decide (0 ≤ demo.cycles)] = true := by decide

/-! ### Traps -/

/-- The region has a fault policy, and a handler at 0x40. -/
def withPolicy (n : Nat) (s : State) : State := withG s (fun g => { g with rcb := { g.rcb with fpol := n, handler := 0x40 } })
/-- The crew's path is its handler path. -/
def handling (s : State) : State := handledBy .single s

theorem witness_trap_words : allOf [allTaken demo [.trap zS, .halt], demo.dbg.hen == false,
    meets { demo with dbg := { demo.dbg with hen := true } } .halt (fun e => e.s.dbg.hen),
    { demo with dbg := { demo.dbg with stopped := true } }.inbox == []] = true := by decide

theorem witness_traps : allOf [
    ([0, 1, 2] : List Nat).all (fun n => (withPolicy n demo).region? 1 |>.any (fun g =>
      g.rcb.fpol == n && g.state == .running && g.ending == none && g.rcb.fdom == 0 && g.takesTraps && !g.trapped)),
    (withG demo (fun g => { g with state := .suspended })).region? 1 |>.any (fun g => g.takesTraps),
    (withG demo (fun g => { g with trapped := true })).region? 1 |>.any (fun g => !g.takesTraps),
    (withC (splitDemo 0) (fun c => { c with handler := some .notTaken })).crew? 0 |>.any (fun c =>
      c.handler == some .notTaken && (c.path? .taken).isSome),
    demo.crew? 0 |>.any (fun c => c.region == 1 && c.handler == none && (c.path? .single).isSome),
    (handling demo).crew? 0 |>.any (fun c => c.handler == some .single), demo.events.drops,
    !({ demo with events := { demo.events with en := true } } : State).events.drops] = true := by decide

theorem witness_checks : allOf [(encode (.aclr zX)).isSome, (demo.env? (.aclr zX)).isSome,
    (withP demo (fun p => { p with flights := [{ idleFlight with writes := [.scalar 0, .scalar 3] }] })).env? (.mov { zR with sa := 3 }) |>.any
      (fun e => e.blocked (.mov { zR with sa := 3 })),
    demo.env? (.vadd { zR with dst := 64 }) |>.any (fun e => !e.blocked (.vadd { zR with dst := 64 }) &&
      (uses (.vadd { zR with dst := 64 })).any (fun u => u.kind.wide && !e.v.mapped u.kind u.num)),
    (splitDemo 0).env? (.aclr zX) |>.any (fun e => !e.blocked (.aclr zX) && crewWide (.aclr zX) && !e.c.isSingle &&
      !(uses (.aclr zX)).any (fun u => u.kind.wide && !e.v.mapped u.kind u.num)),
    (withP demo (fun p => { p with side := { p.side with exm := 1 } })).env? (.aclr zX) |>.any (fun e =>
      e.c.isSingle && e.p.side.exm != e.c.live),
    (withP demo (fun p => { p with cont := some p.spot })).env? (.aclr zX) |>.any (fun e =>
      e.own.isNone && !e.blocked (.aclr zX) && e.p.cont.isSome)] = true := by decide
/-- Two halves that write one bank. -/
def samePair : FieldsP := { hi := { cop := 1, ct := 0, cd := 12, ca := 1, cb := 2 }, lo := { cop := 1, ct := 0, cd := 8, ca := 1, cb := 2 } }
/-- A second crew of the core waits for slices. -/
def arrayTaken : State := { demo with crews := demo.crews ++ demo.crews.map (fun c =>
  { (c.mapPaths (fun p => { p with wait := .slices (aRun 7) })) with id := 9 }) }
theorem witness_pair_and_array : allOf [(encode (.pairWord samePair)).isSome,
    demo.env? (.pairWord samePair) |>.any (fun e => e.own.isNone && !e.blocked (.pairWord samePair) && e.p.cont.isNone &&
      (e.v.pairFault samePair).isSome && !(uses (.pairWord samePair)).any (fun u => u.kind.wide && !e.v.mapped u.kind u.num)),
    arrayTaken.env? (.aclr zX) |>.any (fun e => e.own.isNone && matrixWord (.aclr zX) && e.arrayBusy)] = true := by decide

/-- A handler path whose TRAPPC names a clause of two words at 0x8000, in memory that is mapped. -/
def returning (pc : Word) : State :=
  poke (poke (mapped (withC (handling demo) (fun c => { c with sys := { c.sys with trappc := pc } }))) 0x8000
  (wordHeader ||| 0x10000000000000).toNat) 0x8008 0

/-- The handler path is a peer of a split crew whose region gives traps to the handler; the other peer runs, or holds a trap for it. -/
def sharing (held : Bool) (pc : Word) : State :=
  poke (mapped (withPolicy 2 (handledBy .taken (withC (splitDemo 0) (fun c => { c.updPath .notTaken (fun p =>
    if held then { p with wait := .held aTrap } else p) with sys := { c.sys with trappc := pc } }))))) 0x8100 (wordHeader ||| 0x10000000000000).toNat
theorem witness_shared_return : ([true, false] : List Bool).all (fun h => meets (sharing h 0x8100) .eret (fun e =>
    e.c.handler == some e.r.sel && !e.c.isSingle && e.p.side.frames == [aFrame 9 0x8000] && (e.c.path? .notTaken).any (fun p =>
      (p.wait == .held aTrap) == h) && (e.s.region? e.c.region).any (fun g => g.takesTraps && g.rcb.fpol == 2) &&
      (match e.s.fetchWord 0 1 0 0x8100 with | .ok x => headerFault x == none | .error _ => false)) &&
    meets (sharing h 0x8100) (.exit zI) (fun e => e.c.handler == some .taken && e.p.side.frames.length == 1 &&
      (e.c.live &&& ~~~e.p.side.exm &&& ~~~e.p.side.members != 0) && (e.c.allPaths.any (fun q => (q.2.wait == .held aTrap) == h)))) = true := by
  decide
/-- TRAPPC names word 1 of a clause whose header is the last that is mapped, or a word past the last one of a clause. -/
def cutOff (r : Bool) : State :=
  poke (poke (withPolicy 2 (returning 0x100000003FFFFFF8)) 0x3008 (if r then 0x43 else 0)) 0x3FFFFFF8 (wordHeader ||| 0x10000000000000).toNat
theorem witness_cut_off : allOf [
    ([true, false] : List Bool).all (fun r => meets (cutOff r) .eret (fun e => (match e.s.fetchWord 0 1 0 0x3FFFFFF8 with
      | .ok h => headerFault h == none && decide (1 ≤ hdrCount h) && (match e.s.fetchWords 0 1 (hdrCount h + 1) 1 0x40000000 with
        | .ok _ => false
        | .error f => f.replayable == r)
      | .error _ => false))),
    meets (returning 0x2000000000008000) .eret (fun e => (match e.s.fetchWord 0 1 0 0x8000 with
      | .ok h => headerFault h == none && decide (hdrCount h < 2) | .error _ => false))] = true := by decide

theorem witness_return : allOf [meets demo .eret (fun e => e.c.handler == none),
    meets (returning 0) .eret (fun e => e.c.handler == some .single && (e.s.region? e.c.region).isSome &&
      (match e.s.fetchWord 0 1 0 0 with | .ok h => headerFault h == some 1 | .error _ => false)),
    meets (returning 0x8000) .eret (fun e => e.c.isSingle && e.p.side.frames == [] &&
      (match e.s.fetchWord 0 1 0 0x8000 with | .ok h => headerFault h == none | .error _ => false)),
    meets (returning 0x1000000000008000) .eret (fun e => (match e.s.fetchWord 0 1 0 0x8000 with
      | .ok h => headerFault h == none && decide (hdrCount h = 1) | .error _ => false))] = true := by decide

/-! ### Memory -/

/-- Memory is mapped, and s8 holds an address of it. -/
def dm : State := withS (mapped demo) 8 0x100000
/-- Fields that address memory by s8. -/
def aM : FieldsM := { zM with base := 8, dst := 10 }
/-- A wake register of this package, in s9. -/
def wm : State := withS dm 9 0x01FFFFFFFF800000
/-- A word at each byte of which memory translates to itself. -/
def flatWord (s : State) (i : Instr) (k : AccKind) (vas : Env → List Nat) : Bool := meets s i (fun e => flat s e k false (vas e))

theorem witness_scalar_accesses : allOf [dm.cores.length == 256,
    flatWord dm (.ld aM) .load (fun e => span (addrA e.v aM).toNat 8), flatWord dm (.st aM) .store (fun e => span (addrA e.v aM).toNat 8),
    flatWord dm (.lda aM) .load (fun e => span (addrA e.v aM).toNat 8), flatWord dm (.stl aM) .store (fun e => span (addrA e.v aM).toNat 8),
    flatWord dm (.ld { aM with md := 7, off := 4095 }) .load (fun e => span (addrA e.v { aM with off := 4095 }).toNat 1),
    meets wm (.st { aM with base := 9 }) (fun e =>
      match wm.locs 0 1 .store false (span (e.v.rs 9).toNat 8) with
      | .ok ls => wakePart ls == [(0, 0)]
      | .error _ => false),
    meets dm (.lda { aM with off := 1 }) (fun e => (addrA e.v { aM with off := 1 }).toNat % 8 == 1),
    meets dm (.stl { aM with off := 7 }) (fun e => (addrA e.v { aM with off := 7 }).toNat % 8 == 7),
    decide (([0, 1, 2] : List Nat).Nodup)] = true := by decide
/-- Accesses of wake registers: a word of four bytes, one that is not aligned, and STL of eight bytes. -/
def wakes (i : Instr) (n off : Nat) (q : List (Nat × Nat)) : Bool :=
  meets wm i (fun e => match wm.locs e.c.core e.c.region .store false (span ((e.v.rs 9).toNat + off) n) with
    | .ok ls => wakePart ls == q && ls.all (fun l => match l with | .wake _ _ => true | _ => false)
    | .error _ => false)
theorem witness_wake_registers : allOf [
    wakes (.st { aM with base := 9, md := 1 }) 4 0 [(0, 0)], wakes (.st { aM with base := 9, off := 1 }) 8 1 [(0, 0), (0, 1)],
    wakes (.stl { aM with base := 9, md := 1 }) 4 0 [(0, 0)], wakes (.stl { aM with base := 9 }) 8 0 [(0, 0)],
    decide (63 < wm.queues.length)] = true := by decide
theorem witness_images : dm.memoryOk := ⟨by decide, by decide⟩

theorem witness_atomics : allOf [flatWord dm (.at aM) .atomic (fun e => span (addrA e.v aM).toNat 8),
    flatWord dm (.acas { aM with off := 0x070000 }) .atomic (fun e => span (addrB e.v { aM with off := 0x070000 }).toNat 8),
    meets dm (.at { aM with off := 1 }) (fun e => (addrA e.v { aM with off := 1 }).toNat % 8 == 1),
    meets dm (.vat { aM with pred := 1 }) (fun e => maskLanes (activeMask e.v e.p.side.exm 1) == []),
    flatWord (withK dm 1 2) (.vat { aM with pred := 1 }) .atomic (fun e =>
      (maskLanes (activeMask e.v e.p.side.exm 1)).flatMap (vatSpan e aM)),
    meets dm (.vat { aM with off := 1 }) (fun e => (laneAddr e.v { aM with off := 1 } 0).toNat % 8 == 1)] = true := by decide
/-- The lanes of VAT lie at s8, but for lane 1, whose offset in r7 is one byte. -/
def askewLane : State := withC dm (fun c => c.wrNat .vec 7 4 4 1)
/-- A scalar atomic of queue 0's wake register. -/
def wakeAt : FieldsM := { zM with base := 8, dst := 10, md := 7, scope := 4, ord := 1 }
theorem witness_atomic_forms : allOf [
    meets dm (.acas { aM with off := 0x070001 }) (fun e => (addrB e.v { aM with off := 0x070001 }).toNat % 8 == 1),
    meets askewLane (.vat { aM with off := 0x070000 }) (fun e => let o : FieldsM := { aM with off := 0x070000 }
      (maskLanes (activeMask e.v e.p.side.exm 0)).take 2 == [0, 1] && (laneAddr e.v o 0).toNat % 8 == 0 && (laneAddr e.v o 1).toNat % 8 == 1),
    meets (withS dm 8 0x01FFFFFFFF800000) (.at wakeAt) (fun e => (addrA e.v wakeAt).toNat % 8 == 0 && atomBytes wakeAt.ty == 8 &&
      (match e.s.locs e.c.core e.c.region .atomic (wakeAt.scope == 6) (span (addrA e.v wakeAt).toNat 8) with
       | .ok ls => (wakePart ls).map (fun x => x.1) == [0]
       | .error _ => false))] = true := by decide

/-- One lane is active under k1. -/
def lm : State := withK dm 1 0x8000000000000000
def lM : FieldsM := { aM with pred := 1 }
/-- The bytes that a word of one lane accesses. -/
def laneSpan (e : Env) : List Nat := (laneBytesOf 4 (maskLanes (activeMask e.v e.p.side.exm 1))).map (layout 0 (addrA e.v lM).toNat)

/-- The crew is to be saved. -/
def leaving (s : State) : State := withC s (fun c => { c with state := .saving .preempt })
/-- The clause has a load after the word at which the path stands. -/
def thenLoads (s : State) : State :=
  withP s (fun p => { p with words := p.words ++ [((encode (.ld zM)).getD (false, 0)).2], hdr := wordHeader ||| 0x10000000000000 })

theorem witness_vector_accesses : allOf [
    flatWord lm (.vld lM) .load laneSpan, flatWord lm (.vst lM) .store laneSpan,
    flatWord lm (.vldb lM) .load (fun e => span (addrA e.v lM).toNat 4),
    flatWord lm (.vsts lM) .store (fun e => span (laneAddr e.v lM 63).toNat 4),
    meets (withC lm (fun c => { c with state := .saving .preempt })) (.vldg lM) (fun e => e.c.saving &&
      (gatherLanes e lM [] dm).2 == none),
    meets (leaving (thenLoads lm)) (.vldg lM) (fun e => !e.c.stoppable e.r.sel e.p),
    meets (leaving lm) (.vldg lM) (fun e => e.c.stoppable e.r.sel e.p),
    meets dm (.vldg lM) (fun e => (gatherLanes e lM (maskLanes (activeMask e.v e.p.side.exm 1)) dm).2 == none),
    allTaken dm [.vld lM, .vst lM, .vldb lM, .vldg lM, .vsts lM],
    meets lm (.vld { lM with md := 1, off := 32 }) (fun e => layoutBad 1 (addrA e.v { lM with off := 32 }).toNat),
    meets lm (.vst { lM with md := 2, off := 1 }) (fun e => layoutBad 2 (addrA e.v { lM with off := 1 }).toNat)] = true := by decide

/-- The first 1 GiB is stored in sectors (R195). -/
def squared : State := { dm with g := Memory.writeNat dm.g 0x3000 8 (0x79 + 2 ^ 58) }
theorem witness_sectors : allOf [squared.sector? 0 (0x100020 / 1024 * 1024) == some 1024, dm.sector? 0 (0x100020 / 1024 * 1024) == none,
    squared.sector? 0 (0x100400 / 1024 * 1024) != some 1024] = true := by decide
/-- Column lines serve a sector, and row lines after them; a page that is not stored in sectors has no orientation (R196). -/
theorem test_orientation : ((squared.serve 0 true (span 0x100020 4)).cols, ((squared.serve 0 true (span 0x100020 4)).serve 0 false [0x100000]).cols,
    (dm.serve 0 true (span 0x100020 4)).cols) = ([1024], [], []) := by decide

/-- The block that s8 addresses is pinned by a region. -/
def pinned (k : Nat) : State := { dm with pins := [(1024, k)] }
/-- The region may pin n blocks. -/
def withQuota (n : Nat) (s : State) : State := withG s (fun g => { g with rcb := { g.rcb with lockq := n } })

theorem witness_fences_and_pins : allOf [allTaken dm [.fence { zM with scope := 2, ord := 3 }, .phase, .pref aM],
    meets dm (.lock aM) (fun e => dm.pinBlock 0 (addrA e.v aM).toNat == some 1024 && decide ((addrA e.v aM).toNat < 2 ^ 57)),
    meets (pinned 1) (.lock aM) (fun e => (pinned 1).pins.contains ((1024 : Nat), 1) && ((pinned 1).region? e.c.region).isSome),
    (dm.region? 1).any (fun g => g.rcb.lockq == 0), (withQuota 1 dm).region? 1 |>.any (fun g => g.rcb.lockq == 1),
    allTaken (pinned 1) [.unlk aM], allTaken dm [.unlk aM],
    meets demo (.lock aM) (fun e => demo.pinBlock 0 (addrA e.v aM).toNat == none),
    [Instr.lock aM, .unlk aM].all (fun i => meets (withS dm 8 0x0200000000000000) i (fun e => decide (2 ^ 57 ≤ (addrA e.v aM).toNat)))]
    = true := by decide

/-- A change of the banks of the crew's cluster. -/
def withBank (k : Nat) (b : Bank) (s : State) : State := s.updCluster 0 (fun c => { c with banks := setAt c.banks k b })
def fifoOf (q : List Word) : Bank := { mode := .fifo, holder := some 1, bytes := [], queue := q }
/-- s9 holds the address of bank 15's aperture. -/
def fm (q : List Word) : State := withBank 15 (fifoOf q) (withS dm 9 (0x01FFFFFFFFC00000 + 15 * 262144))
def fM : FieldsM := { zM with base := 9, dst := 10 }

theorem witness_banks : allOf [
    meets (withS dm 3 16) (.bnkcfg { zR with sa := 3, md := 1 }) (fun e => (e.v.rs 3).toNat == 16),
    meets (withBank 15 { fifoOf [] with holder := some 2 } (withS dm 3 15)) (.bnkcfg { zR with sa := 3, md := 1 }) (fun e =>
      ((e.s.cluster 0).banks.getD 15 Bank.reset).holder == some 2),
    meets (withG dm (fun g => { g with rcb := { g.rcb with banks := 0 } })) (.bnkcfg { zR with sa := 3, md := 1 }) (fun e =>
      (e.s.region? 1).any (fun g => g.rcb.banks == 0)),
    meets dm (.bnkcfg { zR with sa := 3, md := 1 }) (fun e => (e.s.region? 1).any (fun g => decide (0 < g.rcb.banks))),
    meets (fm []) (.fput fM) (fun e => match e.fifoBank (addrA e.v fM) with | .ok (k, b) => k == 15 && b.queue == [] | .error _ => false),
    meets (withBank 15 { fifoOf [] with mode := .scratch } (fm [])) (.fput fM) (fun e =>
      match e.fifoBank (addrA e.v fM) with | .ok (_, b) => b.mode == .scratch | .error _ => false),
    meets (fm []) (.fget fM) (fun _ => true),
    meets (fm [5]) (.fget fM) (fun e => match e.fifoBank (addrA e.v fM) with | .ok (_, b) => b.queue == [5] | .error _ => false),
    meets (withBank 15 { fifoOf [] with mode := .scratch } (fm [])) (.fget fM) (fun _ => true)] = true := by decide
theorem witness_full_bank : ∃ b : Bank, b.mode = .fifo ∧ 32768 ≤ b.queue.length :=
  ⟨fifoOf (List.replicate 32768 0), rfl, le_of_eq List.length_replicate.symm⟩

/-- The path waits for a target of the counter at 0x100000. -/
def waitingC (x : Word) : State := withP dm (fun p => { p with wait := .waitc 10 0x100000 (.mem 0x100000) x 0 0 none })
theorem witness_counter_waits : allOf [
    meets dm (.waitc { aM with off := 1 }) (fun e => (addrA e.v { aM with off := 1 }).toNat % 8 == 1),
    meets (withS dm 10 1) (.waitc aM) (fun e => flat dm e .load false (span (addrA e.v aM).toNat 8) &&
      waitcStatus ((dm.tlbFill 0 (span 0x100000 8)).counterAt 0 (.mem 0x100000)) (e.v.rs 10) (e.v.rs 11) 0 0 e.c.saving == none),
    meets dm (.waitc aM) (fun e =>
      waitcStatus ((dm.tlbFill 0 (span 0x100000 8)).counterAt 0 (.mem 0x100000)) (e.v.rs 10) (e.v.rs 11) 0 0 e.c.saving == some 0),
    (waitingC 0).crew? 0 |>.any (fun c => (c.path? .single).any (fun p => p.wait == .waitc 10 0x100000 (.mem 0x100000) 0 0 0 none) &&
      waitcStatus (dm.counterAt 0 (.mem 0x100000)) 0 0 dm.now 0 c.saving == some 0),
    (waitingC 1).crew? 0 |>.any (fun c => waitcStatus (dm.counterAt 0 (.mem 0x100000)) 1 0 dm.now 0 c.saving == none),
    (Memory.readNat ((waitingC 1).gWrite [(0x100000, 1)]).g 0x100000 8 == 1),
    (Memory.readNat ((waitingC 9).gWrite [(0x100007, 0x80)]).g 0x100000 8).testBit 63] = true := by decide

/-! ### Copies, batches, barriers, steps, work -/

/-- A copy of 16 bytes from 0x100010 to 0x100000, in the batch that is open. -/
def aCopy : Copy :=
  { id := 7, crew := 0, region := 1, core := 0, slot := 0, serial := 0, word := 0, kind := .lin 0x100000 0x100010 16, pos := 0,
    entry := 0, old := [], mine := [], wrote := [], seq := 0, since := 0, state := .active }
/-- The package holds copies. -/
def withCopies (l : List Copy) (s : State) : State := { s with copies := l }
/-- Die 0 has tokens. -/
def withTokens (n : Nat) (s : State) : State := s.updDie 0 (fun d => { d with bal := n })
/-- A register that is above the bound of a length, or of a count. -/
def bigLen : State := withS dm 5 0x100000001

theorem witness_copy_words : allOf [
    meets bigLen (.cpy { zR with sc := 5 }) (fun e => decide (2 ^ 32 < (e.v.rs 5).toNat)),
    meets dm (.cpy { zR with sc := 3 }) (fun e => (dm.publish 0).dollyRoom e.c.core),
    meets (withCopies (List.replicate Config.dollyRoom aCopy) dm) (.cpy { zR with sc := 3 }) (fun e =>
      !((withCopies (List.replicate Config.dollyRoom aCopy) dm).publish 0).dollyRoom e.c.core),
    meets (withS dm 5 4097) (.cpyq { zR with sa := 8, sb := 5 }) (fun e => decide (4096 < (e.v.rs 5).toNat)),
    meets (withS dm 5 4096) (.cpyq { zR with sa := 8, sb := 5 }) (fun e => (e.v.rs 8).toNat % 32 == 0),
    meets dm (.cpy2 { zR with sc := 8 }) (fun e => match (dm.publish 0).gRead 0 1 (e.v.rs 8).toNat 32 with
      | .ok b => word8 b 0x18 == 0
      | .error _ => false),
    meets (poke dm 0x100018 1) (.cpyt { zR with sc := 8 }) (fun e => match ((poke dm 0x100018 1).publish 0).gRead 0 1 (e.v.rs 8).toNat 32 with
      | .ok b => word8 b 0x18 == 1
      | .error _ => false),
    meets (withP dm (fun p => { p with wait := .room (.lin 0 0 8) })) (.cpy zR) (fun e => e.p.wait == .room (.lin 0 0 8)),
    meets (withS dm 3 0x100008) (.cpy2 { zR with sc := 3 }) (fun e => e.p.wait == .none && (e.v.rs 3).toNat % 32 == 8),
    meets (withS dm 3 0x100008) (.cpyt { zR with sc := 3 }) (fun e => (e.v.rs 3).toNat % 32 == 8),
    meets (withS dm 3 0x100008) (.cpyq { zR with sa := 3 }) (fun e => (e.v.rs 3).toNat % 32 == 8),
    meets (withS dm 5 0x100000000) (.cpy { zR with sc := 5 }) (fun e => (e.v.rs 5).toNat == 2 ^ 32),
    allTaken dm [.cpyt { zR with sc := 8 }], allTaken (poke dm 0x100018 1) [.cpy2 { zR with sc := 8 }]] = true := by decide

theorem witness_copies : allOf [
    ((withCopies [aCopy] dm).copy? 7).any (fun c => c.kind.isDolly && decide (c.pos < c.kind.total)),
    decide (((withTokens 64 dm).die 0).bal = 64), decide ((dm.die 0).bal < 64),
    ((withCopies [{ aCopy with kind := .list 0x100000 1 none }] dm).copy? 7).any (fun c => c.kind == .list 0x100000 1 none && decide (c.entry < 1)),
    ((withCopies [{ aCopy with mine := [0x100010], old := [(0x100010, 3)] }] dm).copy? 7).any (fun c => c.mine.contains 0x100010),
    ((withCopies [{ aCopy with pos := 16 }] dm).copy? 7).any (fun c => c.whole),
    ((withCopies [{ aCopy with state := .held (pageFault 1 0) 0 }] dm).copy? 7).any (fun c => c.state == .held (pageFault 1 0) 0),
    decide (0 + 1000000 < ({ dm with slate := 1000001 } : State).now), decide (dm.now ≤ 0 + 1000000),
    (let s := withCopies [aCopy] dm
     (match s.locs 0 1 .load false [(aCopy.kind.bytes 0).2], s.locs 0 1 .store false [(aCopy.kind.bytes 0).1] with
      | .ok a, .ok b => a == [.mem 0x100010] && b == [.mem 0x100000]
      | _, _ => false))] = true := by decide

/-- The crew has sealed n batches. -/
def sealedDemo (n : Nat) : State := withC dm (fun c => { c with batches := {
  openSerial := n, sealedB := (List.range n).map (fun i => { serial := i, num := i }), last := if n = 0 then none else some (n - 1),
  recs := [] } })

/-- A fault record. -/
def aRecord : FaultRec :=
  { slate := 0, trapc := 0, trapv := 0, trappc := 0, word := 0, rcb := 0, core := 0, slot := 0, batch := 0 }
theorem witness_batches : allOf [meets (sealedDemo 62) (.sealb zI) (fun e => e.c.batches.sealedB.length == 62),
    meets (sealedDemo 63) (.sealb zI) (fun e => e.c.batches.sealedB.length == 63 && (sealedDemo 63).batchEnded 0 0 &&
      (e.c.batchFault 0).isNone),
    meets (withCopies [aCopy] (sealedDemo 63)) (.sealb zI) (fun e => !e.s.batchEnded 0 0),
    allTaken (sealedDemo 2) [.waitb zI, .waitbT zI, .fence { zM with md := 1 }],
    meets dm (.fence zM) (fun _ => true),
    ((sealedDemo 2).crew? 0).any (fun c => c.batches.last == some 1 && c.batchFault 1 == none),
    (withP (sealedDemo 2) (fun p => { p with wait := .waitb [0, 1] none })).path? me |>.any (fun p => p.inside),
    (withP (sealedDemo 2) (fun p => { p with wait := .waitb [0] (some (3, 5, 0)) })).path? me |>.any (fun p =>
      p.wait == .waitb [0] (some (3, 5, 0))),
    decide (0 + 5 ≤ ({ dm with slate := 5 } : State).now), (sealedDemo 2).batchEnded 0 0,
    (withC (sealedDemo 2) (fun c => { c with batches := { c.batches with recs := [(0, aRecord)] } })).crew? 0 |>.any (fun c =>
      c.oldestFault [0, 1] == some (0, aRecord)),
    (withC (sealedDemo 2) (fun c => { c with state := .saving .preempt })).crew? 0 |>.any (fun c => c.saving),
    (withCopies [{ aCopy with wrote := [0x100000] }] dm).copies.any (fun c => c.crew == 0 && c.serial == 0 && c.wrote == [0x100000])] = true := by
  decide

/-- The crew's batch 0 has faulted. -/
def withFaulted (s : State) : State := withC s (fun c => { c with batches := { c.batches with recs := [(0, aRecord)] } })
theorem witness_batch_faults : allOf [
    ((withPolicy 2 (withFaulted (sealedDemo 2))).crew? 0).any (fun c => c.handler == none && look 0 c.batches.recs == some aRecord),
    ((withPolicy 2 (withFaulted (sealedDemo 2))).region? 1).any (fun g => g.takesTraps && g.rcb.fpol == 2),
    meets (withFaulted (sealedDemo 63)) (.sealb zI) (fun e => e.c.batches.sealedB.length == 63 && e.s.batchEnded 0 0 &&
      e.c.batchFault 0 == some aRecord),
    ((sealedDemo 0).crew? 0).any (fun c => c.batches.last == none), ((sealedDemo 2).crew? 0).any (fun c => c.batches.last == some 1),
    (let s := withP (withFaulted (withCopies [{ aCopy with serial := 1 }] (sealedDemo 2))) (fun p => { p with wait := .waitb [0, 1] (some (3, 5, 0)) })
     (s.crew? 0).any (fun c => c.batchFault 0 == some aRecord) && s.batchEnded 0 0 && !s.batchEnded 0 1)] = true := by decide

/-- A barrier bound to a region, with n arrivals of m expected. -/
def aBarrier (region n m : Nat) : Barrier :=
  { region := region, expect := m, timeout := 5, next := none, gen := 0, count := n, arrived := [], first := some 0,
    expired := false, exited := 0, pending := none }
/-- Barrier 0 of core 0 is bound. -/
def withBarrier (b : Barrier) (s : State) : State := s.setBarrier 0 0 b

theorem witness_barrier_setting : allOf [meets dm (.bari zI) (fun e => (dm.barrier? e.c.core 0).isNone),
    meets (withBarrier (aBarrier 1 0 2) dm) (.bari zI) (fun e => (e.s.barrier? 0 0).any (fun b => b.region == e.c.region && b.count == 0)),
    meets (withBarrier (aBarrier 1 1 2) dm) (.bari zI) (fun e => (e.s.barrier? 0 0).any (fun b => b.count == 1)),
    meets (withBarrier (aBarrier 2 1 2) dm) (.bari zI) (fun e => (e.s.barrier? 0 0).any (fun b => b.region != e.c.region)),
    (withBarrier { aBarrier 1 0 2 with timeout := 0, next := some (3, 4) } dm).barrier? 0 0 |>.any (fun b =>
      b.timeout == 0 && b.next == some (3, 4))] = true := by decide

/-- A second live crew of the region. -/
def twoCrews : State := { dm with crews := dm.crews ++ dm.crews.map (fun c => { c with id := 9, slot := 1 }) }

/-- What a held barrier fault carries. -/
def aHeld : BarrierRec := { slate := 3, core := 0, barrier := 0, cause := 1, expect := 2, arrived := 0, waiting := 0, exited := 0, gen := 0 }
/-- A request of the region waits, so that no barrier of it is unreachable. -/
def seeded (s : State) : State := withG s (fun g => { g with seed := some { die := 0, region := 1, entry := 0, arg := 0, seed := true, spawner := none, since := 0 } })
/-- Another barrier of the core, of some region, that nobody can complete. -/
def withOther (region : Nat) (s : State) : State := s.setBarrier 0 7 (aBarrier region 0 5)
/-- A second crew of the region waits on barrier 0. -/
def oneWaits (s : State) : State := { s with crews := s.crews ++ s.crews.map (fun c =>
  { (c.mapPaths (fun p => { p with wait := .barrier 0 0 })) with id := 9, arrivals := [(0, 0)] }) }
/-- A crew is about to arrive, for the first time, at barrier 0 in state b. -/
def arrives (s : State) (b : Barrier) (i : Instr) (f : Env → State → Barrier → Bool) : Bool :=
  meets (withBarrier b s) i (fun e => look 0 e.c.arrivals != some b.gen && b.pending.isNone && b.region == e.c.region &&
    e.s.barrier? 0 0 == some b && (let q := e.s.countArrival 0 0 b e.c.id; f e q.1 q.2))

theorem witness_arrivals : allOf [
    allTaken dm [.bara zI, .bars zI], allTaken (withBarrier (aBarrier 2 0 2) dm) [.bara zI, .bars zI],
    meets (withBarrier { aBarrier 1 0 2 with pending := some aHeld } dm) (.bara zI) (fun e => (e.s.barrier? 0 0).any (fun b => b.pending == some aHeld)),
    meets (withC (withBarrier (aBarrier 1 1 2) dm) (fun c => { c with arrivals := [(0, 0)] })) (.bara zI) (fun e =>
      look 0 e.c.arrivals == some 0),
    ([.bara zI, .bars zI] : List Instr).all (fun i =>
      arrives (seeded dm) (aBarrier 1 1 2) i (fun _ u b => (u.completeGen 0 0 b).blamed 0 [] 1 == none)),
    arrives dm (aBarrier 1 1 2) (.bara zI) (fun _ u b => ((u.completeGen 0 0 b).blamed 0 [] 1).any (fun x => x.1 == 0)),
    arrives (withOther 1 twoCrews) (aBarrier 1 1 2) (.bara zI) (fun _ u b => ((u.completeGen 0 0 b).blamed 0 [] 1).any (fun x => x.1 == 7)),
    arrives (seeded dm) (aBarrier 1 0 2) (.bara zI) (fun _ u b => !u.unreachable 0 0 b && (u.blamed 0 [0] 1).isNone),
    arrives (oneWaits dm) (aBarrier 1 1 3) (.bara zI) (fun _ u b => u.unreachable 0 0 b && u.waitersOf 0 0 != []),
    arrives dm (aBarrier 1 0 2) (.bara zI) (fun _ u b => u.unreachable 0 0 b && u.waitersOf 0 0 == [])] = true := by decide
theorem witness_waits : allOf [
    arrives dm { aBarrier 1 0 2 with expired := true } (.bars zI) (fun _ _ b => b.expired && b.count != b.expect),
    arrives dm (aBarrier 1 0 2) (.bars zI) (fun e u b => (u.updPath e.r (fun p => { p with wait := .barrier 0 0 })).unreachable 0 0 b),
    arrives (seeded dm) (aBarrier 1 0 2) (.bars zI) (fun e u b =>
      !(u.updPath e.r (fun p => { p with wait := .barrier 0 0 })).unreachable 0 0 b && (u.blamed 0 [0] 1).isNone),
    arrives (withOther 1 twoCrews) (aBarrier 1 0 2) (.bars zI) (fun e u b =>
      !(u.updPath e.r (fun p => { p with wait := .barrier 0 0 })).unreachable 0 0 b && (u.blamed 0 [0] 1).any (fun x => x.1 == 7)),
    meets (withC (withBarrier { aBarrier 1 0 2 with gen := 1 } dm) (fun c => { c with arrivals := [(0, 0)] })) (.barw zI) (fun e =>
      look 0 e.c.arrivals == some 0),
    ([true, false] : List Bool).all (fun x => meets (withBarrier { aBarrier 1 0 2 with expired := x } dm) (.barw zI) (fun e =>
      look 0 e.c.arrivals == none)),
    decide (0 + 5 ≤ ({ dm with slate := 5 } : State).now),
    (withP (withBarrier (aBarrier 1 1 2) dm) (fun p => { p with wait := .barrier 0 0 })).waitersOf 0 0 == [me],
    (withBarrier (aBarrier 1 1 2) dm).waitersOf 0 0 == []] = true := by decide
theorem witness_generations : allOf [decide (0 < dm.cores.length),
    arrives (seeded dm) (aBarrier 1 1 2) (.bara zI) (fun _ u b => b.count == b.expect &&
      (let v := u.completeGen 0 0 b
       (v.boundOn 0).all (fun m => (v.barrier? 0 m).all (fun x => !v.unreachable 0 m x)))),
    (withP dm (fun p => { p with wait := .entry 0 0 })).crew? 0 |>.any (fun c => c.core == 0 && (c.path? .single).any (fun p => p.wait == .entry 0 0)),
    (withP dm (fun p => { p with wait := .barrier 0 0 })).path? me |>.any (fun p => p.wait == .barrier 0 0 && p.cont.isNone &&
      !decide (p.idx < hdrCount p.hdr) && p.side.frames == []),
    (withP dm (fun p => { p with wait := .barrier 0 0, hdr := wordHeader ||| 0x10000000000000 })).path? me |>.any (fun p =>
      decide (p.idx < hdrCount p.hdr)),
    dm.crews.length == 1, (dm.crew? 0).any (fun c => c.allPaths.all (fun q => !q.2.wait.onBarrier 0))] = true := by decide

theorem witness_steps : allOf [
    meets twoCrews .stepw (fun e => (e.s.participants (e.s.stepKey e.c)).any (fun c => c.stepped != some 0)),
    meets dm .stepw (fun e => (e.s.participants (e.s.stepKey e.c)).map (fun c => c.id) == [0]),
    (withP dm (fun p => { p with wait := .step 0 })).path? me |>.any (fun p => p.wait == .step 0 && p.cont.isNone)] = true := by decide

theorem witness_created_work : allOf [
    meets (withS dm 3 4) (.spawn { zR with sa := 3 }) (fun e => (e.v.rs 3).toNat % 8 == 4),
    meets (withS dm 3 32) (.spawnr { zR with sa := 3 }) (fun e => (e.v.rs 3).toNat % 64 == 32),
    meets dm (.spawn { zR with sa := 8 }) (fun e => (dm.region? e.c.region).any (fun g => dm.spawnStatus 0 g == 0)),
    (let s := withG dm (fun g => { g with cnt := 2 ^ 32 - 1 })
     meets s (.spawn { zR with sa := 8 }) (fun e => (s.region? e.c.region).any (fun g => s.spawnStatus 0 g == 2))),
    (let s := withG dm (fun g => { g with cnt := 2 ^ 32 - 1 })
     meets s (.spawnr { zR with sa := 8 }) (fun e => (s.region? e.c.region).any (fun g => (s.publish 0).spawnStatus 0 g == 2))),
    meets dm (.enql zR) (fun _ => true), meets dm .qflush (fun _ => true),
    meets dm .waitsp (fun e => e.c.children == 0),
    meets (withC dm (fun c => { c with children := 1 })) .waitsp (fun e => e.c.children == 1),
    (let t : LaneTask := { region := 1, entry := 0, a1 := 0, a2 := 0, a3 := 0, cycle := 0, cluster := 0 }
     (withG dm (fun g => { g with laneRing := [t] })).region? 1 |>.any (fun g => g.laneRing.find? (fun x => x.cluster == 0) == some t)),
    decide ((dm.cluster 0).fifoCount < 4096), decide ((dm.die 0).spawnQ.length < 4096),
    (let q : Request := { die := 0, region := 1, entry := 0, arg := 0, seed := false, spawner := none, since := 0 }
     (withG dm (fun g => { g with spawnRing := [q] })).region? 1 |>.any (fun g => g.spawnRing == [q]))] = true := by decide

/-- The region's maximum of crews and its spill area (R17, R19). -/
def withArea (m p : Nat) (s : State) : State := withG s (fun g => { g with rcb := { g.rcb with maxc := m, spills := p } })
theorem witness_created_regions : allOf [
    meets (withArea 1 64 dm) (.spawnr { zR with sa := 8 }) (fun e => (dm.region? e.c.region).any (fun g =>
      decide ((dm.publish 0).spawnStatus 0 g ≤ 1))),
    flatWord (withArea 1 64 dm) (.spawnr { zR with sa := 8 }) .load (fun e => span (e.v.rs 8).toNat 2),
    meets (withArea 1 64 dm) (.spawnr { zR with sa := 8 }) (fun e => ((withArea 1 64 dm).region? e.c.region).any (fun g =>
      ((withArea 1 64 dm).publish 0).refusal (resolveRcb (parseRcb (List.replicate 256 0)) (some g.rcb)) == none)),
    ([(demo, false), ({ dm with g := Memory.writeNat dm.g 0x3000 8 0x43 }, true)] : List (State × Bool)).all (fun x =>
      meets (withS x.1 8 0x100000) (.spawnr { zR with sa := 8 }) (fun e => ((x.1.region? e.c.region).any (fun g =>
        decide ((x.1.publish 0).spawnStatus 0 g ≤ 1))) && (match (x.1.publish 0).gRead 0 1 0x100000 256 with
          | .ok _ => false
          | .error f => f.replayable == x.2))),
    meets dm (.spawnr { zR with sa := 8 }) (fun e => (dm.region? e.c.region).any (fun g =>
      (dm.publish 0).refusal (resolveRcb (parseRcb (List.replicate 256 0)) (some g.rcb)) == some 7))] = true := by decide

/-! ### The matrix array -/

/-- A block of zeros, as a product takes it. -/
def blockOk (s : State) (o : FieldsX) (e : Env) : Bool :=
  match s.locs e.c.core e.c.region .load false (span (e.v.rs o.fb.toNat).toNat 32) with
  | .ok bl =>
    let t := s.tlbFill e.c.core (span (e.v.rs o.fb.toNat).toNat 32)
    let b := t.plainLoad e.c.core bl
    b == List.replicate 32 0 && !blockBad o .plain b && limitsOf o .plain (e.v.rs o.ps.toNat) == some (16, 16, 16) &&
      scaleSpan o 0 0 0 == [] && (match t.locs e.c.core e.c.region .load false [] with | .ok ls => ls == [] | .error _ => false)
  | .error _ => false

/-- The path waits for the slices of a run of the word that it stands at. -/
def slicing (a : BitVec 4) : State :=
  withP dm (fun p => { p with words := [((encode (.mma rX)).getD (false, 0)).2], wait := .slices (aRun a) })

/-- The word takes the block at 0x100000 with these first, third and last eight bytes, and what it finds is as p says. -/
def blockIs (i : Instr) (o : FieldsX) (pr : Product) (w0 w2 w3 : Nat) (p : State → Env → List Byte → Bool) : Bool :=
  let s := poke (poke (poke dm 0x100000 w0) 0x100010 w2) 0x100018 w3
  meets s i (fun e =>
    match s.locs e.c.core e.c.region .load false (span 0x100000 32) with
    | .ok bl =>
      let t := s.tlbFill e.c.core (span 0x100000 32)
      let b := t.plainLoad e.c.core bl
      productOf i == some (o, pr) && (e.v.rs o.fb.toNat).toNat % 32 == 0 && p t e b
    | .error _ => false)
/-- A product of another class, and one by the weight buffer. -/
def tX (ty : BitVec 3) : FieldsX := { mX with ty := ty }

theorem witness_blocks : allOf [
    meets (withS dm 8 1) (.mma mX) (fun e => (e.v.rs 8).toNat % 32 != 0),
    meets (withS demo 8 0x100000) (.mma mX) (fun e => match e.s.locs e.c.core e.c.region .load false (span 0x100000 32) with
      | .ok _ => false
      | .error f => !f.replayable),
    blockIs (.mma mX) mX .plain 0 0 1 (fun _ _ b => blockBad mX .plain b),
    blockIs (.mma (tX 4)) (tX 4) .plain 0 8 0x505000 (fun _ _ b => !blockBad (tX 4) .plain b && word8 b 0x10 % 32 == 8),
    blockIs (.mma (tX 1)) (tX 1) .plain 1 0 0x161000 (fun _ _ b =>
      !blockBad (tX 1) .plain b && bits (word8 b 0x18) 17 16 == 2 && word8 b 0 % 2 == 1),
    blockIs (.mma (tX 1)) (tX 1) .plain 0x40000000 0 0x161000 (fun t e b => !blockBad (tX 1) .plain b &&
      (match t.locs e.c.core e.c.region .load false (scaleSpan (tX 1) (word8 b 0) 1 2) with | .ok _ => false | .error f => !f.replayable)),
    blockIs (.mmaw (tX 2)) (tX 2) .weights 0 0 0x303000 (fun _ e b => !blockBad (tX 2) .weights b && e.ownSlot (tX 2) == none &&
      limitsOf (tX 2) .weights (e.v.rs 7) != none)] = true := by decide
theorem witness_products : allOf [
    meets (withS dm 7 0x80000011) (.mma mX) (fun e => blockOk dm { mX with ps := 63 } e && limitsOf mX .plain (e.v.rs 7) == none),
    meets dm (.mmat mX) (fun e => blockOk dm mX e && limitsOf mX .masked (e.v.rs 7) != none),
    meets (dm.updCore 0 (fun c => { c with slots := [(0, { owner := some 1, bytes := [] })] })) (.mmaw (tX 2)) (fun e => (e.ownSlot (tX 2)).isSome),
    meets (withC dm (fun c => c.wside 0 { poison := true, resume := 0, rword := 0 })) (.mma mX) (fun e =>
      blockOk dm mX e && (e.v.side 0).poison),
    meets (withS dm 1 (1#64 <<< 46)) (.mma rX) (fun e => blockOk dm rX e && !(e.v.side 0).poison && descBad (e.v.rs 1)),
    meets dm (.mma mX) (fun e => blockOk dm mX e && !(e.v.side 0).poison && (e.v.remotes mX).isEmpty &&
      (e.sliceRun mX .plain dm (mblockOf mX 0 [] [] [] [] []) (16, 16, 16)).kstep mX == 4),
    meets dm (.mma rX) (fun e => blockOk dm rX e && !descBad (e.v.rs 1) &&
      (let run := e.sliceRun rX .plain dm (mblockOf mX 0 [] [] [] [] []) (16, 16, 16)
       run.kstep rX != 4 && e.v.awaited rX run == [0] && dm.reachable 0)),
    meets (withS dm 1 (1#64 <<< 54)) (.mma rX) (fun e => blockOk dm rX e && !descBad (e.v.rs 1) &&
      (let run := e.sliceRun rX .plain dm (mblockOf mX 0 [] [] [] [] []) (16, 16, 16)
       run.kstep rX != 4 && e.v.awaited rX run == [1] && !dm.reachable 1))] = true := by decide
/-- A run of one element, and what its array gives where a soft error makes a 1 of that element in the runs named. -/
def oneRun : SliceRun := { aRun 15 with lim := (1, 1, 1) }
def struck (ks : List Nat) (k _ v : Nat) : Nat := if ks.contains k then 0x3FF0000000000000 else v
/-- Which of the two runs of that element pass their checks. -/
def passes (ks : List Nat) : List Bool :=
  [0, 1].map (fun k => checksOk 0 (observed 0 (struck ks k)
    ((oneRun.arrived rX .plain 4).map (if k = 0 then id else oneRun.again rX))))
theorem witness_product_end : [passes [], passes [0], passes [0, 1]] = [[true, true], [false, true], [false, false]] ∧
    oneRun.base < 4 ∧ rX.ty = 0 ∧ (∀ i v, struck [0] 1 i v = v) := ⟨by decide +kernel, by decide, rfl, fun _ _ => rfl⟩
/-- A run that is resumed at its slice 2 with what the array kept of its element. -/
def kept : ArrayCell := { computed := true, c := 0, ps := [], nans := [], out := 0, invalid := false }
def resumed : SliceRun := { oneRun with base := 2, held := [kept] }
theorem witness_product_stop : allOf [decide ((aRun 3).base < (aRun 3).kstep rX), decide ((aRun 0).kstep rX ≤ (aRun 0).base),
    resumed.base != 0, resumed.held[0]? == some kept, kept.out == patternAt resumed.acc0.toArray 8 0, !maskedAt .plain 0 0 0,
    ((resumed.arrived rX .plain 4)[0]?).isSome,
    meets (withC dm (fun c => c.wside 0 { poison := false, resume := 0x8000000000000203, rword := 0, held := [kept] })) (.mma rX) (fun e =>
      (e.v.side 0).resume.toNat.testBit 63 && (e.v.side 0).rword == 0),
    (dm.crew? 0).any (fun c => !(c.side 0).resume.toNat.testBit 63)] = true := by decide +kernel
theorem witness_slices : allOf [
    (slicing 7).path? me |>.any (fun p => p.wait == .slices (aRun 7) && p.here == some (.mma rX)), productOf (.mma rX) == some (rX, .plain),
    (aRun 7).mapA.getLsbD 0, !(aRun 7).mapA.getLsbD 3, (aRun 15).kstep rX == 4, (aRun 3).kstep rX != 4,
    (((slicing 7).updCrew 0 (fun c => c.putBytes .tile 0 [])).crew? 0).isSome,
    (withP (slicing 7) (fun p => { p with resolved := some wordViews })).path? me |>.any (fun p =>
      p.wait == .slices (aRun 7) && p.resolved == some wordViews)] = true := by decide
/-- A product of INT8 onto zeros. -/
def iX : FieldsX := { zX with ty := 3, mode := 1 }
theorem witness_matrix_integers : ({ aRun 0 with acc0 := List.replicate 4096 0, lim := (31, 32, 64) } : SliceRun).acc0.length = 4096 ∧
    iX.ty = 3 ∧ maskedAt .plain 0 0 0 = false ∧ maskedAt .masked 0 31 30 = false ∧ maskedAt .masked 1 0 31 = true := by
  refine ⟨List.length_replicate, rfl, ?_⟩
  decide

/-- Fields of a tile or accumulator word at s8, and of a lane of k1. -/
def tM : FieldsM := { zM with base := 8 }
def kM : FieldsM := { zM with base := 8, pred := 1 }
/-- The bytes that a distribution word of one lane accesses. -/
def laneDist (e : Env) : List Nat :=
  (laneBytesOf 32 (maskLanes (activeMask e.v e.p.side.exm 1))).map (fun k => ((addrA e.v kM).toNat + k) % 2 ^ 64)
/-- Accumulator 0 is poisoned. -/
def poisoned (s : State) : State := withC s (fun c => c.wside 0 { poison := true, resume := 0, rword := 0 })

/-- Rows that follow one another from an address. -/
def rows (w n : Nat) : List Nat := (List.range n).map (fun k => rowAt 0x100000 (BitVec.ofNat 64 w) (k / w) (k % w))
/-- Does a word address s8's bytes in rows that follow one another? -/
def plainRows (s : State) (i : Instr) : Bool :=
  meets s i (fun e => e.c.core == 0 && e.c.region == 1 && addrA e.v tM == 0x100000#64 && e.v.rs 9 == 0)
theorem rowAddr_plain {e : Env} {o : FieldsM} (ha : addrA e.v o = 0x100000#64) (hs : e.v.rs (o.base.toNat + 1) = 0) (w n : Nat) :
    (List.range n).map (rowAddr e o w) = rows w n := by
  unfold rows rowAddr
  simp [ha, hs]

theorem witness_rows : allOf [plainRows dm (.tld tM), plainRows dm (.tst tM), plainRows dm (.ald tM), plainRows dm (.ast tM),
    flatWord dm (.wbld tM) .load (fun e => span (addrA e.v tM).toNat 1024),
    meets dm (.ast tM) (fun e => !(e.v.side 0).poison), meets (poisoned dm) (.ast tM) (fun e => (e.v.side 0).poison),
    meets (poisoned dm) (.ald { tM with md := 1 }) (fun e => (e.v.side 0).poison)] = true := by decide
theorem rows_span {w n : Nat} (hw : 0 < w) (hn : n ≤ 4096) (h : w ≤ 4096) : rows w n = (List.range n).map (0x100000 + ·) := by
  unfold rows
  apply List.map_congr_left
  intro k hk
  have hk : k < n := List.mem_range.1 hk
  have h1 := Nat.div_add_mod k w
  have h2 : k / w ≤ k := Nat.div_le_self k w
  have h3 : k % w < w := Nat.mod_lt k hw
  have h4 : w * (k / w) ≤ k := by omega
  have h5 : (0x100000 : Word).toNat = 0x100000 := rfl
  simp only [rowAt, BitVec.toNat_add, BitVec.toNat_mul, BitVec.toNat_ofNat, h5]
  rw [Nat.mod_eq_of_lt (show w < 2 ^ 64 by omega), Nat.mod_eq_of_lt (show k / w < 2 ^ 64 by omega),
    Nat.mod_eq_of_lt (show w * (k / w) < 2 ^ 64 by omega), Nat.mod_eq_of_lt (show k % w < 2 ^ 64 by omega)]
  omega
/-- The page at s8 translates to itself, for loads and stores, so the rows of a tile or an accumulator do. -/
theorem witness_page : [AccKind.load, .store].all (fun k =>
    match dm.pageOf 0 k false 0x100000 with
    | .ok p => p == 0x100000
    | .error _ => false) = true := by decide
theorem witness_flat_rows {n : Nat} (hn : n < 4096) :
    dm.locs 0 1 .load false ((List.range (n + 1)).map (0x100000 + ·)) = .ok (((List.range (n + 1)).map (0x100000 + ·)).map Loc.mem) := by
  have hp : dm.pageOf 0 .load false 0x100000 = .ok 0x100000 := by
    have h := witness_page
    simp only [List.all_cons, Bool.and_eq_true] at h
    revert h
    cases dm.pageOf 0 .load false 0x100000 with
    | error f => simp
    | ok p => intro h; simpa using h.1
  rw [List.range_succ_eq_map, List.map_cons]
  rw [dm.locs_page 0 1 .load false (q := 256) (p := 0x100000) _ ?_ hp]
  · simp
    intro a ha
    omega
  · intro x hx
    rw [List.mem_cons, List.mem_map] at hx
    rw [wakeBase]
    rcases hx with rfl | ⟨y, hy, rfl⟩
    · omega
    · rw [List.mem_map] at hy
      obtain ⟨z, hz, rfl⟩ := hy
      have := List.mem_range.1 hz
      omega
theorem witness_dist_moves : allOf [flatWord lm (.dld kM) .load laneDist, flatWord lm (.dst kM) .store laneDist,
    meets lm (.dld kM) (fun e => laneDist e != [] && (addrA e.v kM).toNat % 4 == 0),
    meets dm (.dld kM) (fun e => laneDist e == []), meets dm (.dst kM) (fun e => laneDist e == []),
    decide (0 < dm.cores.length)] = true := by decide
theorem witness_misaligned_moves : allOf [
    meets dm (.tld { tM with md := 2, off := 32 }) (fun e => (tileAddrs e { tM with md := 2, off := 32 }).isNone),
    meets dm (.tst { tM with md := 3, off := 1 }) (fun e => (tileAddrs e { tM with md := 3, off := 1 }).isNone),
    meets lm (.dld { kM with off := 2 }) (fun e => laneDist e != [] && (addrA e.v { kM with off := 2 }).toNat % 4 == 2),
    meets lm (.dst { kM with off := 1 }) (fun e => laneDist e != [] && (addrA e.v { kM with off := 1 }).toNat % 4 == 1)] = true := by decide

theorem witness_accumulator_words : allOf [allTaken dm [.aclr zX, .tsigTile zX, .tsigAcc zX, .ascl zX, .acvt zX, .tschk aM],
    allTaken (poisoned dm) [.tsigAcc zX, .ascl zX, .acvt zX],
    meets dm (.ascl zX) (fun e => !(e.v.side 0).poison), meets (poisoned dm) (.ascl zX) (fun e => (e.v.side 0).poison),
    meets dm (.tschk { aM with off := 1 }) (fun e => (addrA e.v { aM with off := 1 }).toNat % 8 == 1),
    flatWord dm (.tschk aM) .load (fun e => span (addrA e.v aM).toNat 8),
    meets dm (.tschk aM) (fun e => ofBytes ((dm.tlbFill 0 (span (addrA e.v aM).toNat 8)).plainLoad 0 ((span 0x100000 8).map Loc.mem)) ==
      e.v.sys.tsig.toNat),
    meets (withC dm (fun c => { c with sys := { c.sys with tsig := 9 } })) (.tschk aM) (fun e => e.v.sys.tsig == 9)] = true := by
  decide

/-! ### The fabric -/

/-- A state in which other packages have routes by bank 0, and the fabric state changed. -/
def withFab (s : State) (f : Fabric → Fabric) : State := { s with fab := f s.fab }
def routed (s : State) : State := withFab s (fun f => { f with banks := [(1, 0x0000)] })
/-- The descriptor of a word at s8, as its transfer reads it. -/
def descIs (s : State) (e : Env) (p : List Byte → Bool) : Bool :=
  match (s.publish e.c.core).gRead e.c.core e.c.region 0x100000 64 with
  | .ok b => p b
  | .error _ => false
/-- Copies of the fabric engine that run, as many as it has room for. -/
def fullEngine : State :=
  withCopies (List.replicate 4096 { aCopy with kind := .put .rel (fabDesc []), state := .active }) dm

theorem witness_transfers_issue : allOf [
    meets dm (.rput { aM with off := 1 }) (fun e => (addrA e.v { aM with off := 1 }).toNat % 64 != 0),
    meets dm (.rget { aM with off := 1 }) (fun e => (addrA e.v { aM with off := 1 }).toNat % 64 != 0),
    meets dm (.rred { aM with off := 1 }) (fun e => (addrA e.v { aM with off := 1 }).toNat % 64 != 0),
    meets dm (.rput aM) (fun e => (addrA e.v aM).toNat % 64 == 0 && descIs dm e (fun b => !descIllegal b .rel true none)),
    meets dm (.rget aM) (fun e => descIs dm e (fun b => !descIllegal b .rel false none)),
    meets dm (.rred aM) (fun e => descIs dm e (fun b => !descIllegal b .rel false (some .f32))),
    meets dm (.rput { aM with md := 2 }) (fun e => descIs dm e (fun b => descIllegal b .lossy true none)),
    meets dm (.rget { aM with md := 2 }) (fun e => descIs dm e (fun b => descIllegal b .lossy false none)),
    meets dm (.rred { aM with md := 2 }) (fun e => descIs dm e (fun b => descIllegal b .lossy false (some .f32))),
    ([.rput zM, .rget zM, .rred zM] : List Instr).all (fun i => meets demo i (fun e => e.p.wait == .none &&
      (match (demo.publish 0).gRead e.c.core e.c.region 0 64 with | .ok _ => false | .error f => !f.replayable))),
    meets (withP dm (fun p => { p with wait := .room (.put .rel (fabDesc [])) })) (.rput aM) (fun e => e.p.wait == .room (.put .rel (fabDesc []))),
    (CopyKind.put .rel (fabDesc [])).xfer.isSome, xferClass 1 == .ord, dm.fabricRoom] = true := by decide
theorem witness_engine_full : allOf [fullEngine.fabricRoom == false,
    allTaken fullEngine [.rput aM, .rget aM, .rred aM]] = true := by decide

/-- A descriptor of one contribution whose data and masks lie at 0x100000. -/
def vm : State := withK (poke dm 0x100018 1) 1 0x8000000000000000
theorem witness_remote_words : allOf [
    meets dm (.ratom { aM with off := 1 }) (fun e => (addrA e.v { aM with off := 1 }).toNat % 8 != 0),
    meets (withS dm 9 1) (.ratom aM) (fun e => !dm.reachable ((e.v.rs 9).setWidth 10)),
    meets dm (.ratom aM) (fun e => dm.reachable ((e.v.rs 9).setWidth 10) &&
      (wakeQueueOf { id := 0, src := 0, addr := addrA e.v aM, ty := 0, op := 0, x := 0 } 0).isNone),
    meets (withS (withS dm 9 0) 8 0x01FFFFFFFF800000) (.ratom { aM with md := 7 }) (fun e =>
      wakeQueueOf { id := 0, src := 0, addr := addrA e.v aM, ty := 0, op := 7, x := 0 } 0 == some 0),
    meets dm (.rmskRd { aM with off := 1 }) (fun e => (addrA e.v { aM with off := 1 }).toNat % 8 != 0),
    flatWord dm (.rmskRd aM) .load (fun e => span (addrA e.v aM).toNat 8),
    flatWord (withS dm 10 0x100000) (.rmskArm aM) .load (fun _ => span 0x100000 128),
    meets (withS dm 10 0x100008) (.rmskArm aM) (fun e => (e.v.rs 10).toNat % 64 == 8),
    meets (withS dm 10 0x100000) (.rmskArm { aM with off := 1 }) (fun e => (e.v.rs 10).toNat % 64 == 0 &&
      (addrA e.v { aM with off := 1 }).toNat % 8 == 1),
    flatWord (withS dm 10 0x100000) (.rmskArm { aM with off := 1 }) .load (fun _ => span 0x100000 128),
    meets (withS demo 10 0x100000) (.rmskArm aM) (fun e => (match demo.locs e.c.core e.c.region .load false (span (e.v.rs 10).toNat 128) with
      | .ok _ => false
      | .error f => !f.replayable)),
    (withFab dm (fun f => { f with armed := [{ addr := 0x100000, core := 0, group := [], region := 1 }] })).fab.armed.any (fun x =>
      x.addr == 0x100000),
    decide (256 ≤ (withFab dm (fun f => { f with armed := List.replicate 256 { addr := 8, core := 0, group := [], region := 1 } })).fab.armed.length),
    meets (withS vm 5 2) (.vrdcm { zR with sa := 8, sb := 5 }) (fun e => (e.v.rs 5).toNat % 4 == 2),
    meets dm (.rmskDisarm aM) (fun _ => true),
    meets (withS dm 3 1) (.vrdcm { zR with sa := 3 }) (fun e => (e.v.rs 3).toNat % 32 != 0),
    flatWord dm (.vrdcm { zR with sa := 8 }) .load (fun _ => span 0x100000 32),
    redDesc (List.replicate 32 0) == none, redDesc (wordBytes [0, 0, 0, 1]) != none] = true := by decide
theorem witness_reduction : meets vm (.vrdcm { zR with sa := 8, sb := 3, pred := 1 }) (fun e =>
    flat vm e .load false (span 0x100000 32) &&
    (let t := vm.tlbFill 0 (span 0x100000 32)
     (redDesc (t.plainLoad 0 ((span 0x100000 32).map Loc.mem))).any (fun d => d.n == 1 && d.base == 0 &&
       (match t.locs 0 1 .load false (vrdcmMaskAddrs false d 0) with | .ok ls => ls == [.mem 0] | .error _ => false))) &&
    maskLanes (activeMask e.v e.p.side.exm 1) == [63] && (e.v.rs 3).toNat % 4 == 0) = true := by decide

/-- The sums of the accumulating form lie where nothing is mapped, and no contribution counts. -/
theorem witness_sums_unmapped : meets (poke vm 0x100000 0x80000000) (.vrdcm { zR with sa := 8, sb := 3, pred := 1, md := 1 }) (fun e =>
    let t := (poke vm 0x100000 0x80000000).tlbFill 0 (span 0x100000 32)
    maskLanes (activeMask e.v e.p.side.exm 1) == [63] &&
    (redDesc (t.plainLoad 0 ((span 0x100000 32).map Loc.mem))).any (fun d =>
      (match t.locs 0 1 .load false (vrdcmMaskAddrs true d 252) with | .ok ls => !vrdcmValid true 252 0 (t.plainLoad 0 ls) | .error _ => false) &&
      (match t.locs 0 1 .load false (vrdcmDataAddrs true d 252 []) with | .ok _ => false | .error f => !f.replayable))) = true := by decide

/-- A link that is up. -/
def upPort (s : State) (k : Nat) : State := { s with mode := .full }.updPort k (fun q => { q with up := true, keys := some (0, 0) })
/-- A packet from another package. -/
def aPacket (dest : BitVec 10) (m : Msg) : Packet :=
  { dest := dest, bank := 0, via := none, passed := false, vcSet := 0, control := true, lossy := false, msg := m }
/-- A put of another package that is under way here, and its record. -/
def aHdr (c : XferClass) : XferHdr :=
  { id := 4, src := 1, cls := c, seq := 0, dst := 0x100000, len := 256, cnta := 0x100400, maska := 0x100800, deadline := 500, red := none, rank := 0 }
def anIn (c : XferClass) (got : List Nat) : Incoming :=
  { hdr := aHdr c, pages := [(256, 0x100000)], got := got, flits := [], accepted := true, hold := none, finished := false, failed := false, since := 0 }
def incoming (x : Incoming) (s : State) : State := withFab s (fun f => { f with incoming := [x] })
/-- Memory may not be read now, and the fault can be replayed. -/
def replayed : State := { dm with g := Memory.writeNat dm.g 0x3000 8 0x43 }
/-- An atomic of another package. -/
def anAtom : AtomReq := { id := 3, src := 1, addr := 0x100000, ty := 0, op := 0, x := 5 }

/-- The route to package 1 goes by a VIA. -/
def viaRoute (k : BitVec 10) : State := withFab demo (fun f => { f with banks := [(1, 0x4000 ||| k.setWidth 16)] })
/-- A job of the engine with flits left to pay. -/
def aJob (n : Nat) : FabJob := { id := 2, die := 0, left := n, out := none, msg := .idle }
theorem witness_fabric_engine : allOf [
    demo.mode == .full, (demo.port 0).up == false,
    (let t := upPort demo 3; t.mode == .full && (t.port 3).up && (t.port 3).keys.isSome),
    (let t := upPort demo 62; (t.port 62).up && (t.port 62).keys.isSome), demo.bankValid 0 == false,
    (withFab demo (fun f => { f with valid0 := true })).bankValid 0, routeMode ((routed demo).routeEntry 0 1) == 0, demo.pkgId == 0,
    routeMode ((viaRoute 2).routeEntry 0 1) == 1, ((viaRoute 2).routeEntry 0 1).setWidth 10 != demo.pkgId,
    ((viaRoute 0).routeEntry 0 1).setWidth 10 == demo.pkgId, decide (2 ≤ routeMode (demo.routeEntry 0 1)),
    ({ aPacket 1 .idle with via := some 0 } : Packet).via == some demo.pkgId, ({ aPacket 1 .idle with via := some 5 } : Packet).via != none,
    (withCopies [{ aCopy with kind := .put .rel (fabDesc []) }] (withTokens 96 dm)).mayFlit { aCopy with kind := .put .rel (fabDesc []) },
    decide ((dm.die 0).bal < 96),
    ([0, 1, 2] : List Nat).all (fun n => (withFab dm (fun f => { f with jobs := [aJob n] })).fab.jobs.find? (fun j => j.id == 2) == some (aJob n)),
    decide (96 ≤ ((withTokens 96 dm).die 0).bal),
    (withCopies [] dm).copy? 2 == none,
    (match dm.gRead noCore 0 0x100000 8 with | .ok b => b == List.replicate 8 0 | .error _ => false),
    (match dm.locs noCore 0 .atomic false (span 0x100000 8) with | .ok ls => ls == (span 0x100000 8).map Loc.mem | .error _ => false),
    atomBytes anAtom.ty == 8, decide ((span 0x100000 8).Nodup), dm.incoming? (inKey 1 3) == none,
    ((incoming { anIn .rel [] with hdr := { aHdr .rel with id := 3 } } dm).incoming? (inKey 1 3)).isSome,
    dm.atomCore anAtom == none, (withP dm (fun p => { p with wait := .ratom { anAtom with src := 0 } 10 false 0 })).atomCore { anAtom with src := 0 } == some 0,
    (match demo.locs noCore 0 .load false (span 0x100000 8) with | .ok _ => false | .error f => !f.replayable),
    (match replayed.locs noCore 0 .load false (span 0x100000 8) with | .ok _ => false | .error f => f.replayable),
    (match dm.locs 0 1 .atomic false (span 0x100000 8) with | .ok ls => ls == (span 0x100000 8).map Loc.mem | .error _ => false),
    decide (dm.now ≤ anAtom.since + 1000000), decide (anAtom.since + 1000000 < ({ dm with slate := 1000001 } : State).now),
    !dm.fab.lost.contains 1, dm.pkgId != 1, dm.fab.lost == [], dm.fab.armed == [], (withFab dm (fun f => { f with lost := [1] })).fab.lost.contains 1] = true := by decide

/-- A read of no bytes has no flit to pay for. -/
def emptyGet : Copy := { aCopy with kind := .get false { fabDesc [] with len := 0 } }
theorem witness_read_of_nothing : allOf [(withCopies [emptyGet] dm).mayFlit emptyGet, (dm.die 0).bal == 0] = true := by decide

/-- What ordered transfers of this package come to: to another package and to itself. -/
def failing (pkg : BitVec 10) : Copy := { aCopy with kind := .put .ord { fabDesc [] with pkg := pkg } }
/-- A transfer of this package into itself that is here. -/
def mine (fin fl : Bool) : Incoming := { anIn .ord [] with hdr := { aHdr .ord with id := 7, src := 0 }, finished := fin, failed := fl }
theorem witness_failed_transfers : allOf [
    (withFab dm (fun f => { f with cancels := [(1, aHdr .ord)] })).fab.cancels.find? (fun q => q.2.id == 4) == some (1, aHdr .ord),
    dm.fab.cancels == [], (failing 1).kind.xfer.isSome, (fabDesc []).pkg == dm.pkgId, (1 : BitVec 10) != dm.pkgId,
    ([false, true] : List Bool).all (fun x => (incoming (mine true x) dm).performedHere (failing 0) == !x),
    dm.performedHere (failing 0) == false,
    ([(true, true), (true, false), (false, false)] : List (Bool × Bool)).all (fun x =>
      (incoming (mine x.1 x.2) dm).incoming? (xferKey (mine x.1 x.2).hdr) == some (mine x.1 x.2)),
    dm.incoming? (xferKey (aHdr .ord)) == none, (aHdr .ord).seq == seqOf 1 dm.fab.seqIn, ({ aHdr .ord with seq := 3 } : XferHdr).seq != seqOf 1 dm.fab.seqIn,
    (anIn .lossy []).accepted, !(anIn .rel []).finished, decide ((anIn .rel []).since + 1000000 < ({ dm with slate := 1000001 } : State).now),
    !(anIn .rel []).got.contains (64 / 64)] = true := by decide

/-- A late translation fault. -/
def aFault (r : Bool) : MemFault := { cls := 8, cause := 1, va := 0x100000, replayable := r }
theorem witness_atomic_resend : (let s := withP dm (fun p => { p with wait := .ratom anAtom 10 false 0 })
    s.allPaths.map (fun q => (q.1, q.2.wait)) == [(me, .ratom anAtom 10 false 0)] && (s.copy? anAtom.id).isNone &&
    (s.crew? 0).isSome) = true := by decide
theorem witness_transfers_end : allOf [dm.incoming? (xferKey (aHdr .lossy)) == none,
    (match dm.locs noCore 0 .store false (lossyAddrs (aHdr .lossy)) with | .ok _ => true | .error _ => false),
    decide (0 < (aHdr .lossy).len ∧ dm.now < (aHdr .lossy).deadline.toNat),
    (match demo.locs noCore 0 .store false (lossyAddrs (aHdr .lossy)) with
     | .ok _ => false
     | .error f => !f.replayable || f.cls == 9),
    ((incoming (anIn .lossy []) dm).incoming? (xferKey (aHdr .lossy))) == some (anIn .lossy []),
    (anIn .lossy [0]).got.contains 0,
    (match (incoming (anIn .lossy []) dm).landLocs (anIn .lossy []) (span 0x100000 2 ++ blockMarkAddrs (aHdr .lossy) 0) with
     | .ok ls => ls == [.mem 0x100000, .mem 0x100001, .mem 0x100800]
     | .error _ => false), decide (([0x100000, 0x100001] ++ [0x100800] : List Nat).Nodup),
    (anIn .lossy [0]).whole, !(anIn .lossy []).whole, decide (500 ≤ ({ dm with slate := 600 } : State).now),
    (incoming (anIn .rel (List.range (pieceCount 256))) dm).mayFinish (anIn .rel (List.range (pieceCount 256))),
    !(incoming (anIn .rel []) dm).mayFinish (anIn .rel []),
    (match dm.locsWith noCore 0 .atomic false (span 0x100400 8) (anIn .rel []).pages with
     | .ok ls => ls == (span 0x100400 8).map Loc.mem
     | .error _ => false),
    (withCopies [{ aCopy with kind := .put .rel (fabDesc []), state := .sent, entry := 2 }] dm).copy? 7 |>.any (fun c => c.state == .sent && c.entry == 2),
    (match dm.locs noCore 0 .store false (lossyAddrs (aHdr .lossy)), dm.locs noCore 0 .atomic false (lossyCounter (aHdr .lossy)) with
     | .ok _, .ok _ => true
     | _, _ => false),
    (match replayed.locs noCore 0 .store false (lossyAddrs (aHdr .lossy)) with | .ok _ => false | .error f => f.replayable && f.cls != 9),
    (match dm.locs noCore 0 .atomic false (lossyAddrs { aHdr .lossy with red := some .f32 }) with | .ok _ => true | .error _ => false),
    (anIn .lossy []).hdr.red == none, (anIn .lossy []).hdr.maska != 0,
    (List.range (blockCount 256)).filter (fun b => !(anIn .lossy []).got.contains b) == [0],
    (look (0x100000 / 4096) (anIn .lossy []).pages).isSome && (look (maskByteAddr (aHdr .lossy) 0 / 4096) (anIn .lossy []).pages).isSome,
    (span 0x100000 256).all (fun va => decide (va < wakeBase ∧ va ≠ maskByteAddr (aHdr .lossy) 0)),
    (withCopies [{ aCopy with kind := .put .lossy (fabDesc []), state := .sent, entry := 1 }] dm).copy? 7 |>.any (fun c =>
      c.state == .sent && c.entry == 1 && (c.kind.xfer.any (fun x => x.2.1 == .lossy))),
    decide ((aHdr .lossy).deadline.toNat ≤ ({ dm with slate := 600 } : State).now), ({ aHdr .lossy with len := 0 } : XferHdr).len == 0,
    (match dm.locs noCore 0 .store false (lossyAddrs { aHdr .lossy with len := 0 }) with | .ok _ => true | .error _ => false),
    (dm.zeroFill (anIn .lossy [])).2.isNone,
    ([(demo, false), (replayed, true)] : List (State × Bool)).all (fun x =>
      (x.1.zeroFill { anIn .lossy [] with pages := [] }).2.any (fun f => f.replayable == x.2)),
    (withCopies [{ aCopy with kind := .put .rel (fabDesc []), state := .held (aFault true) 0 }] dm).copy? 7 |>.any (fun c => c.running),
    dm.reachable (fabDesc []).pkg, dm.reachable 1 == false, decide (aCopy.since + 1000000 < ({ dm with slate := 2000000 } : State).now),
    decide (dm.now ≤ aCopy.since + 1000000)] = true := by decide

/-! ### Links, routing, power -/

theorem witness_links : allOf [decide (3 < dm.fab.ports.length), (upPort dm 3).port 3 |>.up,
    decide (((upPort dm 3).port 3).lastIn + dm.fab.lnkto < ({ dm with slate := 20000000 } : State).now), (dm.port 3).up == false,
    (let q := ((upPort dm 3).updPort 3 (fun q => { q with lastIn := 20000000 })).port 3
     decide (q.lastAck + dm.fab.lnkto < ({ dm with slate := 20000000 } : State).now ∧ ¬ q.lastIn + dm.fab.lnkto < 20000000)),
    decide (dm.now ≤ (dm.port 3).lastIn + dm.fab.lnkto ∧ dm.now ≤ (dm.port 3).lastAck + dm.fab.lnkto),
    decide (2 ^ 62 ≤ ((dm.updPort 3 (fun q => { q with ctr := 2 ^ 62 - 16 })).port 3).ctr + 16), decide ((dm.port 3).ctr + 16 < 2 ^ 62),
    decide ((dm.port 3).lastOut + 1000 ≤ ({ dm with slate := 2000 } : State).now), (dm.port 3).bringing == false,
    ((dm.updPort 3 (fun q => { q with bringing := true })).port 3).bringing,
    (let q := (dm.updPort 3 (fun q => { q with auto := true, down := true })).port 3; q.auto && q.down && !q.up && !q.bringing && decide (q.retryAt ≤ dm.now)),
    ((dm.updPort 3 (fun q => { q with auto := false })).port 3).auto == false,
    decide (2 ^ 62 ≤ ((dm.updPort 3 (fun q => { q with ctr := 2 ^ 62 - 1 })).port 3).ctr + 1), decide ((dm.port 3).ctr + 1 < 2 ^ 62),
    decide (10000 ≤ (10000 : Word).toNat ∧ (10000000 : Word).toNat ≤ 10000000),
    dm.fab.inj == 0, dm.heldCount 1 == 0,
    decide (0 < (withFab dm (fun f => { f with held := [{ aPacket 1 .idle with bank := 1 }] })).heldCount 1),
    dm.bankValid 1 == false, (withFab dm (fun f => { f with valid1 := true })).bankValid 1] = true := by decide
theorem witness_bank_switch : ∀ d : BitVec 10, ({ dm with fab := { dm.fab with inj := 1 } } : State).reachable d = false → dm.reachable d = false := by
  intro d h
  unfold State.reachable State.routeEntry at *
  simp only [Bool.or_eq_false_iff] at *
  refine ⟨h.1, ?_⟩
  have hb : dm.fab.banks = [] := by rfl
  rw [hb]
  show decide (routeMode ((none : Option (BitVec 16)).getD 0x8000) ≤ 1) = false
  decide
theorem witness_reserves : allOf [
    meets dm (.tkrsv zS) (fun e => decide (min (e.v.rs 0).toNat (2 ^ 18) ≤ e.c.reserve)),
    meets (withS dm 3 0x40000) (.tkrsv { zS with ss := 3 }) (fun e => decide (e.c.reserve < min (e.v.rs 3).toNat (2 ^ 18)) && (dm.core 0).hold.isNone),
    (let s := (withS dm 3 9).updCore 0 (fun k => { k with hold := some { crew := 7, sel := .single } })
     meets s (.tkrsv { zS with ss := 3 }) (fun e => decide (e.c.reserve < 9) && (s.core e.c.core).hold.any (fun r => r.crew != e.c.id))),
    decide (((dm.crews.filter (fun c => c.core == 0 && c.holdsSlot)).map (fun c => c.reserve)).sum ≤ 2 ^ 19),
    (dm.crews.filter (fun c => c.id == 0)).length == 1,
    (let cs : List CueEntry := List.replicate 256 { msg := { group := 1, src := 0, start := 0, rise := 1, dur := 1 }, at_ := none }
     let s : State := { withS dm 3 0x10001 with power := { dm.power with ggrp := { dm.power.ggrp with group := 1 }, budgetNow := 1, cues := cs } }
     s.inGroup && decide (256 ≤ s.power.cues.length) && (s.taken (.cue { zS with ss := 3 })).isSome)] = true := by decide
theorem witness_token_words : allOf [allTaken dm [.tkrsv zS, .cue zS, .blst zS],
    meets dm (.cue zS) (fun e => bits (e.v.rs 0).toNat 25 16 == 0),
    meets (withS dm 3 0x10001) (.cue { zS with ss := 3 }) (fun e => bits (e.v.rs 3).toNat 25 16 == 1 && bits (e.v.rs 3).toNat 15 0 == 1 &&
      bits (e.v.rs 3).toNat 63 48 == 0 && bits (e.v.rs 3).toNat 31 26 == 0 && !dm.inGroup),
    (let s : State := { dm with power := { dm.power with ggrp := { dm.power.ggrp with group := 1 }, budgetNow := 1 } }
     s.inGroup && decide (s.power.cues.length < 256)),
    meets (withS dm 3 1) (.blst { zS with ss := 3 }) (fun e => (e.v.rs 3).toNat % 16 != 0),
    meets dm (.blst { zS with ss := 8, imm := 1 }) (fun e => (e.v.rs 8).toNat % 16 == 0 && decide ((dm.die 0).blists.length < 64)),
    decide (64 ≤ ((dm.updDie 0 (fun d => { d with blists := List.replicate 64 { region := 9, base := 0, n := 1, cursor := 0 } })).die 0).blists.length),
    !((dm.updDie 0 (fun d => { d with blists := List.replicate 64 { region := 9, base := 0, n := 1, cursor := 0 } })).die 0).blists.any
      (fun l => l.region == 1)] = true := by decide

/-- This package is in group 1. -/
def grouped : State := { dm with power := { dm.power with ggrp := { dm.power.ggrp with group := 1 }, budgetNow := 1 } }
def aCue (start : Nat) : CueMsg := { group := 1, src := 0, start := start, rise := 1, dur := 1 }
theorem witness_ticks : allOf [decide (dm.now / 1024 = dm.power.interval), decide (({ dm with slate := 1024 } : State).now / 1024 ≠ dm.power.interval),
    decide (dm.firm.steady < 999), (dm.core 0).hold.isNone,
    ((dm.updCore 0 (fun c => { c with hold := some me })).core 0).hold.isSome,
    grouped.inGroup, decide (grouped.power.cues.length < 256), !dm.inGroup,
    (aCue 9).group == grouped.power.ggrp.group, decide (grouped.now / 1024 + 4 < (aCue 9).start),
    decide ((aCue 2).start ≤ grouped.now / 1024 + 4), decide (dm.power.rate ≤ dm.power.gcfg.cap),
    dm.dies.length == 4, dm.cores.length == 256, !(dm.die 0).limited, ((dm.updDie 0 (fun d => { d with limited := true })).die 0).limited,
    dm.inService 0, !({ dm with mode := .minimal } : State).inService 1, dm.regions.map (fun g => g.id) == [1],
    (dm.updCore 0 (fun c => { c with heldTicks := 64 })).cores.any (fun c => decide (64 ≤ c.heldTicks)),
    (let p := ({ dm with power := { dm.power with drawn := 1 } } : State).power; decide (p.rate < (p.drawn + 1023999) / 1024000)),
    decide ((dm.power.drawn + 1023999) / 1024000 ≤ dm.power.rate)] = true := by decide
/-- 4,000 tokens for two dies that need them: each gets its share by weight; the rest of the 3 that rounding leaves stays (R325). -/
theorem test_shares : shares 4003 [(0, 9000, 1), (1, 9000, 3), (2, 0, 5)] = [(0, 1000), (1, 3002)] := by decide
/-- The rate rises by at most SLEW, to the demand and to CAP, and falls by at most SLEW (R332). -/
theorem test_rate : (newRate 100 500 128 128 4500, newRate 100 150 128 128 4500, newRate 100 500 128 128 120, newRate 500 100 7 128 4500,
    newRate 500 450 7 128 440) = (228, 150, 120, 372, 440) := by decide

/-! ### Services and launch queues -/

def served : State := withP dm (fun p => { p with wait := .sysc 1 3 0x100000 0 0 })
/-- A fault of firmware's write at s8, that is to be replayed or not, with the record it writes and its reply not yet due, or due. -/
theorem witness_service_faults : allOf [
    ([(demo, false), (replayed, true)] : List (State × Bool)).all (fun x =>
      (match (x.1.openFor noCore 1 .store (span 0x100000 64)).locs noCore 1 .store false (span 0x100000 64) with
       | .ok _ => false
       | .error f => f.replayable == x.2) &&
      (match x.1.gRead noCore 1 0x100000 64 with | .ok _ => false | .error f => f.replayable == x.2) &&
      ((x.1.takeTrap me aTrap).crew? 0).any (fun c =>
        c.lastRec.isSome && (x.1.service c 1 0x100000 0).2 == (if x.2 then none else some 3))),
    decide (({ served with slate := 99999 } : State).now < 0 + 100000), decide (0 + 100000 ≤ ({ served with slate := 100000 } : State).now)] = true := by decide
theorem witness_services : allOf [allTaken dm [.syscNotify zS, .syscFrec zS, .syscBrec zS, .syscAttest zS],
    (served.crew? 0).any (fun c => (c.path? .single).any (fun p => p.wait == .sysc 1 3 0x100000 0 0) && c.lastRec == none && c.batchRecord 3 == none),
    decide ((8 : Word).toNat % 64 ≠ 0),
    ((dm.takeTrap me aTrap).crew? 0).any (fun c => c.lastRec.isSome),
    (match dm.locs noCore 1 .store false (span 0x100000 64) with | .ok ls => ls == (span 0x100000 64).map Loc.mem | .error _ => false),
    decide ((span 0x100000 64).Nodup)] = true := by decide

/-- A batch of the crew has faulted, and not been sealed again. -/
def faultedBatch : State := withC dm (fun c => { c with batches := { c.batches with last := some 3, recs := [(3, aRecord)] } })
theorem witness_written_records : allOf [
    (faultedBatch.crew? 0).any (fun c => c.batches.last == some 3 && (c.batchRecord 3).isSome),
    (match dm.locs noCore 1 .load false (span 0x100000 64) with | .ok ls => ls == (span 0x100000 64).map Loc.mem | .error _ => false),
    (match dm.locs noCore 1 .store false (span 0x100040 384) with | .ok ls => ls == (span 0x100040 384).map Loc.mem | .error _ => false)]
    = true := by decide
theorem witness_report_bytes : (span 0x100040 384).Nodup := by decide +kernel

/-- Queue 3 is on, its ring of two packets at 0x100000, with one written there whose header is these words. -/
def queueOf (n w0 w1 : Nat) : State :=
  { poke (poke dm 0x100000 w0) 0x100008 w1 with mode := .full }.updQueue 3 (fun q => { q with rbase := 0x100000, en := true, log2 := 4, wr := BitVec.ofNat 64 n })
/-- A take whose first packet's units cannot be put back yet. -/
def taking : State :=
  { replayed with dbg := { replayed.dbg with takePos := some 0
                                             packets := [{ queue := 3, slate := 0, base := 0x100000, units := [[1]], tag := 0, sum := none }] } }
theorem witness_take_held : (taking.dbg.restore == [] && (taking.dbg.packets[0]?).isSome &&
    (match taking.serviceWrite 0 0x100000 [1] with | .ok _ => false | .error f => f.replayable)) = true := by decide
/-- The packet that a queue's front end reads. -/
def packetIs (s : State) (p : QPacket → Bool) : Bool := match s.resubmit.packet 3 with | .ok q => p q | .error _ => false
theorem witness_queues : allOf [
    (let s := queueOf 1 0 0; decide ((s.queue 3).wr.toNat < 2 ∧ (2 : Word).toNat ≤ (s.queue 3).rd.toNat + 2 ^ (s.queue 3).log2) && s.mode == .full),
    packetIs (queueOf 1 0 0) (fun p => p.ty == 0),
    packetIs (queueOf 1 (2 * 2 ^ 56) 1) (fun p => p.ty == 2 && p.op == 1), packetIs (queueOf 1 (2 * 2 ^ 56) 2) (fun p => p.op == 2),
    packetIs (queueOf 1 (2 * 2 ^ 56) 3) (fun p => p.op == 3), packetIs (queueOf 1 (2 * 2 ^ 56) 4) (fun p => p.op == 4),
    packetIs (queueOf 1 (3 * 2 ^ 56) 0) (fun p => p.ty == 3),
    (match (queueOf 1 (9 * 2 ^ 56) 0).resubmit.packet 3 with | .error (some e) => e == 3 | _ => false)] = true := by decide
/-- Queue 63 is on, with a ring of four units at 0x100000 and room for n of them. -/
def bridging (n : Nat) (s : State) : State :=
  s.updQueue 63 (fun q => { q with rbase := 0x100000, en := true, log2 := 2, wr := BitVec.ofNat 64 (4 - n) })
/-- Does a write of a unit to the ring meet a fault of a kind? -/
def ringFault (s : State) (r : Bool) : Bool :=
  match (s.openFor noCore 0 .store (bridgePlaces (s.queue 63) 1)).locs noCore 0 .store false (bridgePlaces (s.queue 63) 1) with
  | .ok _ => false
  | .error f => f.replayable == r
theorem witness_bridge_packets : allOf [
    (let q := (bridging 1 dm).queue 63; q.en && !q.halt && decide (q.wr.toNat + 1 ≤ q.rd.toNat + 2 ^ q.log2)),
    (let q := (bridging 0 dm).queue 63; decide (q.rd.toNat + 2 ^ q.log2 < q.wr.toNat + 1)), decide (63 < (bridging 1 dm).queues.length),
    ringFault (bridging 1 demo) false, ringFault (bridging 1 replayed) true,
    (match (bridging 1 dm).locs noCore 0 .store false (bridgePlaces ((bridging 1 dm).queue 63) 1) with
     | .ok ls => ls == (span 0x1000C0 64).map Loc.mem
     | .error _ => false), decide ((span 0x1000C0 64).Nodup), (dm.queue 63).en == false,
    ({ dm with mode := .minimal } : State).mode == .minimal, ({ dm with mode := .recovery } : State).mode == .recovery] = true := by decide
/-- A packet of the bridge ports comes to lie at WR of queue 63, which moves past it, and is answered where a port is up; one that is
too long halts the queue with ERR 2 (R22, R375). -/
theorem test_bridge_packet :
    (let t := (upPort (bridging 1 dm) 62).takeMsg true (.launchUnits [List.replicate 64 7])
     ((t.queue 63).wr, Memory.readNat t.g 0x1000FF 2, t.fab.bridge.map (fun x => x.1))) = (4, 7, [62]) ∧
    (let t := (bridging 0 dm).takeMsg true (.launchUnits [List.replicate 64 7])
     ((t.queue 63).wr, (t.queue 63).halt, (t.queue 63).err)) = (4, true, 2) := by decide
theorem witness_control_attest : packetIs (queueOf 2 (2 * 2 ^ 56 + 2 ^ 52) 5) (fun p => p.ty == 2 && p.op == 5) = true := by decide
theorem witness_launch : packetIs (queueOf 1 (2 ^ 56) 0x100400) (fun p => p.ty == 1 && (queueOf 1 (2 ^ 56) 0x100400).mayLaunch 3 p) = true := by decide
theorem witness_phase : packetIs (queueOf 1 (2 ^ 56 + 5) 0x100400) (fun p => p.ty == 1 && !(queueOf 1 (2 ^ 56 + 5) 0x100400).mayLaunch 3 p) = true := by
  decide
/-- A template that no check refuses: window 1, one crew, its spill area. -/
def aTemplate : List Byte := (List.range 256).map (fun k => if k = 0x32 then 1 else if k = 0x30 then 1 else if k = 0x48 then 2 else 0)
theorem witness_launch_root : ({ dm with mode := .full } : State).refusal
    { resolveRcb (parseRcb aTemplate) none with karg := 0 } = none := by decide
theorem witness_one_by_one : allOf [({ dm with dbg := { dm.dbg with reel := true } } : State).oneByOne,
    (let s : State := { queueOf 1 (2 ^ 56) 0x100400 with dbg := { dm.dbg with take := true }, regions := [] }
     (s.updQueue 3 (fun q => { q with phaseDone := true })).mayLaunch 3 { hd := [], n := 1, bytes := [], base := 0, tmpl := [] }),
    dm.phaseEnded 3 { hd := [], n := 1, bytes := [], base := 0, tmpl := [] },
    (let s := withG { dm with dbg := { dm.dbg with reel := true } } (fun g => { g with queue := some 3 })
     !s.phaseEnded 3 { hd := [], n := 1, bytes := [], base := 0, tmpl := [] })] = true := by decide
theorem witness_reports : ([64, 128].all (fun n => (match dm.locs noCore 0 .store true (span 0x100000 n) with | .ok _ => true | .error _ => false))) = true := by
  decide

/-! ### Crews, clauses, regions -/

/-- A header of class 0 without entry waits: its price in quarter units, and the words after the first. -/
def aHeader (price n : Nat) : Nat := 14 * 2 ^ 60 + n * 2 ^ 52 + price * 2 ^ 34 + 127 * 2 ^ 27 + 127 * 2 ^ 20
/-- The path of me stands before a clause at address 0, of one word 0 under a header, on a core with a balance. -/
def issuing (h bal : Nat) : State :=
  (withP (poke dm 0 h) (fun p => { p with inside := false })).updCore 0 (fun c => { c with bal := bal })
/-- Fetched, with neither entry wait: the crew, the path, the header and the words. -/
def fetched (s : State) (p : Crew → Path → Word → List Word → Bool) : Bool :=
  (s.crew? 0).any (fun c => (c.path? .single).any (fun x => s.crewRuns c && !x.inside && x.wait == .none &&
    (match s.fetchWord c.core c.region 0 x.side.pc.toNat with
     | .ok h =>
       (match s.fetchWords c.core c.region (hdrCount h + 1) 1 (x.side.pc.toNat + 8) with
        | .ok ws => p c x h ws
        | .error _ => false)
     | .error _ => false)))
theorem witness_clause_issue : allOf [fetched (issuing 0 9) (fun _ _ h _ => headerFault h == some 1),
    fetched (issuing (aHeader 1 0) 9) (fun c p h ws => headerFault h == none && ((issuing (aHeader 1 0) 9).entryBarrier c h).isNone &&
      c.entryBatches h == [] && (staticFault h ws).isNone && decodeWord (hdrPair h 0) (ws.headD 0) == some .nop &&
      !p.blocked (c.readUnits (uses .nop)) (c.writeUnits (uses .nop)) && !(issuing (aHeader 1 0) 9).heldAgainst c.core me &&
      decide (4 * hdrPrice h ≤ c.reserve + ((issuing (aHeader 1 0) 9).core c.core).bal)),
    (issuing (aHeader 1 0) 9).issuer 0 == some (me, 0),
    fetched (withP (issuing (aHeader 1 0) 9) (fun p => { p with flights := [{ idleFlight with writes := [.scalar 3] }] })) (fun c p _ _ =>
      p.blocked (c.readUnits (uses (.mov { zR with sa := 3 }))) (c.writeUnits (uses (.mov { zR with sa := 3 })))),
    fetched (issuing (aHeader 1 0) 3) (fun c _ h _ => decide (c.reserve + ((issuing (aHeader 1 0) 3).core c.core).bal < 4 * hdrPrice h)),
    fetched (issuing (aHeader 0 0) 3) (fun _ _ h ws => (staticFault h ws).isSome),
    fetched ((issuing (aHeader 1 0) 9).updCore 0 (fun c => { c with hold := some { crew := 9, sel := .single } })) (fun c _ _ _ =>
      ((issuing (aHeader 1 0) 9).updCore 0 (fun c => { c with hold := some { crew := 9, sel := .single } })).heldAgainst c.core me)] = true := by
  decide

/-- A path is issuing again, or has still to issue again, an instruction that a pre-emption stopped. -/
theorem witness_reissues : ([(true, false), (false, true)] : List (Bool × Bool)).all (fun x =>
    let s := withP demo (fun p => { p with cont := if x.1 then some p.spot else none, recs := if x.2 then [p.spot] else [] })
    (s.crew? 0).any (fun c => c.reissues)) = true := by decide

/-- A header that waits on entry for a barrier, or for a batch, and its clause under a barrier of the core. -/
def waitHeader (bar batch : Nat) : Nat := 14 * 2 ^ 60 + 2 ^ 34 + bar * 2 ^ 27 + batch * 2 ^ 20
def atBarrier (b : Barrier) : State := withBarrier b (issuing (waitHeader 0 127) 9)
theorem witness_entry_waits : allOf [
    fetched (atBarrier { aBarrier 1 0 2 with pending := some aHeld }) (fun c _ h _ => headerFault h == none && decide (hdrWbar h < 96) &&
      ((atBarrier { aBarrier 1 0 2 with pending := some aHeld }).barrier? c.core (hdrWbar h)).any (fun b => b.region == 1 && b.pending.isSome)),
    ([true, false] : List Bool).all (fun x =>
      fetched (withC (atBarrier { aBarrier 1 1 2 with expired := x }) (fun c => { c with arrivals := [(0, 0)] })) (fun c _ h _ =>
        look (hdrWbar h) c.arrivals == some 0 && ((atBarrier { aBarrier 1 1 2 with expired := x }).barrier? c.core (hdrWbar h)).any (fun b =>
          b.gen == 0 && b.pending == none && b.expired == x))),
    fetched (atBarrier (aBarrier 1 0 2)) (fun c _ h _ => look (hdrWbar h) c.arrivals == none),
    (let s := withC (issuing (waitHeader 127 0) 9) (fun c => { c with batches := ((sealedDemo 2).crew? 0).elim c.batches Crew.batches })
     fetched s (fun c _ h _ => headerFault h == none && (s.entryBarrier c h).isNone && hdrWbatch h != 127 && c.covers (hdrWbatch h) != []))]
    = true := by decide
/-- The last header that is mapped, before a page that cannot be read. -/
def endOfCode (r : Bool) : State :=
  withP (poke (poke (issuing 0 9) 0x3008 (if r then 0x43 else 0)) 0x3FFFFFF8 (aHeader 1 0)) (fun p =>
    { p with side := { p.side with pc := 0x3FFFFFF8 } })
theorem witness_fetch_faults : ([true, false] : List Bool).all (fun r =>
    (match (endOfCode r).fetchWord 0 1 0 0x3FFFFFF8 with
     | .ok h => headerFault h == none && (match (endOfCode r).fetchWords 0 1 (hdrCount h + 1) 1 0x40000000 with
       | .ok _ => false
       | .error f => f.replayable == r)
     | .error _ => false) &&
    (match (endOfCode r).fetchWord 0 1 0 0x40000000 with | .ok _ => false | .error f => f.replayable == r)) = true := by decide

/-- The path has lacked the tokens of its clause for long. -/
def starving : State := { withP (issuing (aHeader 1 0) 3) (fun p => { p with starved := some 0 }) with slate := 1000 }
theorem witness_hold : (chooseHold (starving.starvedOn 0)).any (fun x => x.1 == me) = true := by decide

/-- A request waits on die 0. -/
def aRequest : Request := { die := 0, region := 1, entry := 0x40, arg := 5, seed := false, spawner := none, since := 0 }
def requested : State := withArea 4 64 ({ dm with mode := .full }.updDie 0 (fun d => { d with spawnQ := [aRequest] }))
theorem witness_dispatch : allOf [requested.inService 0, decide (requested.firm.pausedUntil ≤ requested.now),
    requested.ordered 0 == [.request aRequest],
    (requested.region? 1).any (fun g => g.state == .running && decide (requested.liveCrews g.id < g.rcb.maxCrews) &&
      (match requested.chooseCore g.rcb.win [0, 1] with | some k => (requested.placeOn k g.rcb.win).isSome | none => false)),
    ({ dm with mode := .recovery } : State).inService 0 == false] = true := by decide
/-- A crew about to be saved, at a barrier, and one that has ended. -/
def saving (s : State) : State := withC (withP s (fun p => { p with wait := .barrier 0 0 })) (fun c => { c with state := .saving .preempt })
def ended (s : State) : State := withC s (fun c => { c with state := .ending, live := 0 })
/-- A region that terminates. -/
def terminating : State := withG dm (fun g => { g with state := .terminating })
/-- A region whose completion store is held by a fault. -/
def endStore : State :=
  withG dm (fun g => { g with state := .complete, ending := some { step := .compa, fault := some { cls := 8, cause := 1, va := 0, replayable := true }, since := 0, refused := false } })
theorem witness_crews : allOf [
    ((saving dm).crew? 0).any (fun c => c.allPaths.all (fun q => q.2.atSavePoint) && ((saving dm).liveOf c).isNone && c.state == .saving .preempt),
    ((withC (slicing 3) (fun c => { c with state := .saving .preempt })).crew? 0).any (fun c => c.allPaths.any (fun q => q.2.inSlices)),
    ((saving dm).crew? 0).any (fun c => c.recUnits == [] && c.s.length == 64),
    !(dm.core 1).ran.contains 1, ((dm.updCore 0 (fun k => { k with ran := [1] })).core 0).ran.contains 1,
    ((withC dm (fun c => { c with state := .saving .preempt })).crew? 0).any (fun c => c.allPaths.any (fun q => !q.2.atSavePoint)),
    ((ended dm).crew? 0).any (fun c => (ended dm).crewDone c && c.parent == none), (dm.crew? 0).any (fun c => !dm.crewDone c),
    ((withC (ended dm) (fun c => { c with parent := some 4 })).crew? 0).any (fun c => c.parent == some 4),
    (endStore.region? 1).any (fun g => g.ending.any (fun e => e.fault.isSome)), decide (1000000 < ({ dm with slate := 1000001 } : State).now),
    (dm.region? 1).any (fun g => !dm.canEnd g), (terminating.region? 1).any (fun g => terminating.canEnd g)] = true := by decide

/-- A seed request, a cast of one lane, a saved crew: each the only candidate of die 0. -/
def seeding : State := withG (withArea 4 64 { dm with mode := .full }) (fun g => { g with seed := some { aRequest with seed := true } })
def aLaneTask : LaneTask := { region := 1, entry := 8, a1 := 1, a2 := 2, a3 := 3, cycle := 0, cluster := 0 }
def aCast : Cast := { region := 1, entry := 8, tasks := [aLaneTask], since := 0 }
def casting : State := (withArea 4 64 { dm with mode := .full }).updCluster 0 (fun k => { k with casts := [aCast] })
def saved (why : SaveWhy) : State := withC (withArea 4 64 { dm with mode := .full }) (fun c => { c with state := .saved why })
/-- Does some core of a list have room for a crew of a region? -/
def hasRoom (s : State) (win : Nat) (ks : List Nat) : Bool :=
  match s.chooseCore win ks with | some k => (s.placeOn k win).isSome | none => false
theorem witness_candidates : allOf [
    [seeding, casting, saved .preempt, saved .waitsp].all (fun s => s.inService 0 && decide (s.firm.pausedUntil ≤ s.now)),
    seeding.ordered 0 == [.seed 1 { aRequest with seed := true }], casting.ordered 0 == [.cast 0 aCast],
    [SaveWhy.preempt, .waitsp].all (fun w => (saved w).ordered 0 == ((saved w).crew? 0).toList.map Candidate.restore),
    (casting.region? 1).any (fun g => g.state == .running && decide (casting.liveCrews g.id < g.rcb.maxCrews) &&
      hasRoom casting g.rcb.win ((casting.coresOf g.rcb).filter (fun n => clusterOf n == 0))),
    (seeding.region? 1).any (fun g => g.state == .running && decide (seeding.liveCrews g.id < g.rcb.maxCrews) &&
      hasRoom seeding g.rcb.win [0, 1]),
    ((saved .waitsp).region? 1).any (fun g => g.state == .running && hasRoom (saved .waitsp) g.rcb.win [0]),
    (aCast.tasks)[0]? == some aLaneTask, decide ((viewBase 0 + 3) * 256 ≤ 1 * 4096)] = true := by decide
/-- The crew is saved, and crews of a region of less priority fill the quadrants of its core. -/
def crowded : State :=
  let s := withG (saved .preempt) (fun g => { g with rcb := { g.rcb with prio := 3 } })
  { s with
    crews := s.crews ++ ([0, 1, 2, 3] : List Nat).flatMap (fun q => dm.crews.map (fun c =>
      { c with id := 9 + q, region := 2, quad := q, unit := 0, win := Config.unitsPerQuad }))
    regions := s.regions ++ dm.regions.map (fun g => { g with id := 2, rcb := { g.rcb with prio := 0 } }) }
theorem witness_victim : (crowded.crew? 0).any (fun c => crowded.ordered 0 == [.restore c] && (crowded.region? 1).any (fun g =>
    crowded.admits g (.restore c) && (crowded.chooseCore g.rcb.win (crowded.coresFor g (.restore c))).isNone &&
    !crowded.savingOn (crowded.coresFor g (.restore c)) &&
    (crowded.victim g.rcb.prio (crowded.coresFor g (.restore c))).isSome)) = true := by decide
/-- The page at 0, and with it the region's spill area, belongs to the host. -/
def hostOwned (s : State) : State := { s with g := Memory.writeNat s.g 0x3000 8 (0x79 + 2 ^ 59) }
theorem witness_restore_held : allOf [
    ((saved .preempt).region? 1).any (fun g => !(saved .preempt).areaHeld g 0),
    (let s := hostOwned (saved .preempt)
     (s.region? 1).any (fun g => g.state == .running && s.areaHeld g 0 && (s.crew? 0).any (fun c => c.area == 0 &&
       s.ordered 0 == [.restore c] && s.admits g (.restore c) == false)))] = true := by decide
/-- The liveness table of the crew's code lies in a page of the host's, or the crew's code has none. -/
def tabled (s : State) : State := { s with firm := { s.firm with codeMap := [(0, 2 ^ 40, 0x200000)] } }
theorem witness_live_held : allOf [
    (let s := tabled (saving (hostOwned dm))
     (s.crew? 0).any (fun c => s.liveHeld c) && (match s.gRead noCore 1 0x200000 64 with | .ok _ => false | .error f => f.cls == 9 && f.replayable)),
    (let s := tabled (saving demo)
     (s.crew? 0).any (fun c => !s.liveHeld c) && (match s.gRead noCore 1 0x200000 64 with | .ok _ => false | .error f => f.cls != 9)),
    ((saving dm).crew? 0).any (fun c => !(saving dm).liveHeld c)] = true := by decide
theorem witness_stoppable : allOf [
    ((leaving (slicing 3)).crew? 0).any (fun c => c.allPaths.any (fun q => q.2.inSlices && c.stoppable q.1 q.2)),
    (let s := leaving (thenLoads (slicing 3))
     (s.crew? 0).any (fun c => c.allPaths.any (fun q => q.2.inSlices && !c.stoppable q.1 q.2)))] = true := by decide
theorem saveLeaves_first {s : State} {g : Region} {e p : Nat} (h : g.rcb.maxCrews = 1) (h0 : 0 < g.rcb.spills)
    (hl : s.lookup noCore g.rcb.spillb.toNat = .leaf e p) : (e, p) ∈ s.saveLeaves g := by
  have hp : s.savePart g = 0 := by rw [State.savePart, h, Nat.mod_one]
  rw [State.saveLeaves, hp, State.areaLeaves, List.mem_filterMap]
  exact ⟨g.rcb.spillb.toNat, by simp [Region.areaPages, h0], by simp [hl]⟩
/-- The page of the region's spill area belongs to the device, or to the host. -/
theorem witness_save_held : ∀ host : Bool, ∃ (s : State) (g : Region) (p : Nat × Nat), s.region? 1 = some g ∧
    (∃ c, s.crew? 0 = some c ∧ c.state = .saving .preempt) ∧ p ∈ s.saveLeaves g ∧ bit p.1 59 = host := by
  intro host
  let s (x : Bool) : State := withArea 1 1 (saving (if x then hostOwned dm else dm))
  let e : Nat := if host then 0x79 + 2 ^ 59 else 0x79
  have h : ∃ g, (s host).region? 1 = some g ∧ g.rcb.maxCrews = 1 ∧ 0 < g.rcb.spills ∧
      (s host).lookup noCore g.rcb.spillb.toNat = .leaf e 0 ∧ bit e 59 = host := by cases host <;> decide
  obtain ⟨g, hg, h1, h2, h3, h4⟩ := h
  exact ⟨s host, g, (e, 0), hg, by cases host <;> exact ⟨_, rfl, rfl⟩, saveLeaves_first h1 h2 h3, h4⟩

/-! ### Firmware, host, supply -/

/-- A path that a replayable fault holds. -/
def faulted : State := withP dm (fun p => { p with wait := .fault { cls := 8, cause := 1, va := 0, replayable := true } 0 })
/-- Leaves of 4 KiB at 0x5000, in a CONT group, of which the fourth is guarded. -/
def grouping : State :=
  let t (a x : Nat) (m : Memory) : Memory := Memory.writeNat m a 8 x
  { dm with
    g := (List.range 16).foldl (fun m j => t (0x5000 + 8 * j) (j * 4096 + 0x79 + 2 ^ 57 - if j = 3 then 14 else 0) m)
      (t 0x4000 0x5001 (t 0x3000 0x4001 dm.g))
    dbg := { dm.dbg with guarded := [(0x5018, 3 * 4096 + 0x79 + 2 ^ 57)], active := true, reelSize := 65536 } }
theorem witness_groups : allOf [
    (grouping.leafPage 0x7008).any (fun q => q == (0x5038, 7 * 4096 + 0x79 + 2 ^ 57, 0x7000, 4096)),
    (grouping.groupOf 0x7008).length == 16, (dm.groupOf 0).length == 1, grouping.guardedAt 0x7008, grouping.dbg.active,
    (let s : State := { dm with g := Memory.writeNat dm.g 0x3000 8 0x6B, dbg := { dm.dbg with guarded := [(0x3000, 0x79)] } }
     match s.locs 0 1 .store false [0x3008], s.locs 0 1 .load false [0x3008] with
     | .error f, .ok _ => f.replayable && f.lacksW && s.guardFault f && (s.groupOf f.va.toNat).any (fun l => (look l.1 s.dbg.guarded).isSome)
     | _, _ => false),
    grouping.dbg.restore == [], (grouping.groupOf 0x7008).all (fun l => !grouping.keepsPage l.2.2.1 l.2.2.2)] = true := by decide
theorem witness_faults : allOf [(faulted.heldFault (.path me)).isSome, faulted.dbg.guarded == [], (dm.heldFault (.path me)).isNone,
    (dm.leafPage 0).any (fun q => q.1 == 0x3000 && !bit q.2.1 59), ((hostOwned dm).leafPage 0).any (fun q => bit q.2.1 59),
    dm.dbg.restore == [], !dm.keepsPage 0 (2 ^ 30), (incoming (anIn .lossy []) dm).keepsPage 0 (2 ^ 30),
    decide (0x40000000 < firmwareBase) && demo.hostMay 0x40000000, dm.hostMay 0x100000 == false,
    ({ dm with firm := { dm.firm with tlbinv := some 0 } } : State).firm.tlbinv == some 0,
    (dm.updCore 0 (fun k => { k with dirty := [0x100000] })).cores.any (fun k => k.dirty.contains 0x100000),
    (incoming (anIn .lossy []) dm).fab.incoming.any (fun y => y.pages.any (fun x => covered 0x100000 x.1)),
    dm.fab.incoming.isEmpty, (incoming { anIn .rel [] with pages := [] } dm).fab.incoming.all (fun y => y.pages == [])] = true := by decide

/-- A lossy transfer holds a translation, and a path waits on a counter, at a page. -/
theorem witness_invalidation : allOf [(anIn .lossy []).pages != [],
    (waitingC 1).allPaths.any (fun q => match q.2.wait with | .waitc _ _ _ _ _ _ none => true | _ => false)] = true := by decide
theorem witness_registers : allOf [decide (0x2008 < 0x3000 ∧ 0x3000 ≤ 0x4008 ∧ 0x4008 < 0x100000), decide (63 < 64)] = true := by decide
theorem witness_debug : allOf [({ dm with dbg := { dm.dbg with stopped := true } } : State).dbg.stopped, !dm.inbox.contains .powerOnReset,
    (let s : State := { dm with dbg := { dm.dbg with stop := true } }; s.dbg.stop && s.slate == s.dbg.dbgstop), !dm.dbg.stop,
    !dm.dbg.reel, !dm.dbg.take, ({ dm with dbg := { dm.dbg with reel := true } } : State).dbg.reel,
    ({ dm with dbg := { dm.dbg with take := true, restore := [0] } } : State).dbg.take,
    ({ dm with dbg := { dm.dbg with take := true, restore := [0] } } : State).dbg.restore != [], decide (0 < dm.hist.length ∧ 0 < (dm.hist.getD 0 []).length),
    decide (6 ≤ (9 : Word).toNat % 32), decide ((5 : Word).toNat % 32 < 6)] = true := by decide

/-! ### Well-formed words -/

/-- A term with one field out of its range for each check of fields, beside one with the field in range. -/
theorem test_wf_unused_field : ((Instr.mov { zR with sb := 1 }).wf, (Instr.mov zR).wf) = (false, true) := by decide
theorem test_wf_unused_immediate : ((Instr.exit { zI with imm := 1 }).wf, (Instr.exit zI).wf) = (false, true) := by decide
theorem test_wf_reserved_type : ((Instr.vbfe { zR with ty := 2 }).wf, (Instr.vbfe { zR with ty := 6 }).wf) = (false, true) := by decide
theorem test_wf_reserved_mod : ((Instr.vcmp { zR with md := 6 }).wf, (Instr.vcmp { zR with md := 5 }).wf) = (false, true) := by decide
theorem test_wf_scalar_name : ((Instr.mov { zR with dst := 64 }).wf, (Instr.mov { zR with dst := 63 }).wf) = (false, true) := by decide
theorem test_wf_mask_name : ((Instr.kand { zR with dst := 8 }).wf, (Instr.kand { zR with dst := 7 }).wf) = (false, true) := by decide
theorem test_wf_barrier : ((Instr.bara { zI with imm := 96 }).wf, (Instr.bara { zI with imm := 95 }).wf) = (false, true) := by decide
theorem test_wf_broadcast : ((Instr.vsel { zR with bv := 1, bpos := 1 }).wf, (Instr.vsel { zR with bv := 1, bpos := 2, sb := 0 }).wf) = (false, true) := by decide
theorem test_wf_size : ((Instr.st { zM with md := 5 }).wf, (Instr.ld { zM with md := 5 }).wf) = (false, true) := by decide
theorem test_wf_staging : ((Instr.mma { zX with ra := 1, rb := 1, ta := 3, tb := 3 }).wf, (Instr.mma { zX with ra := 1, rb := 1, ta := 3, tb := 4 }).wf) =
    (false, true) := by decide
theorem test_wf_remote : ((Instr.mmaw { zX with rb := 1 }).wf, (Instr.tsigTile { zX with ra := 1 }).wf) = (false, false) := by decide
theorem test_wf_item : ((Instr.tkrd { zS with imm := 8 }).wf, (Instr.tkrd { zS with imm := 7 }).wf) = (false, true) := by decide
theorem test_wf_service : ((Instr.syscBrec { zS with sys := 2, imm := 128 }).wf, (Instr.syscBrec { zS with sys := 2, imm := 127 }).wf) = (false, true) := by
  decide
theorem test_wf_half : ((Instr.pairWord { hi := zH, lo := { zH with cop := 0x1F } }).wf, (Instr.pairWord { hi := zH, lo := { zH with cop := 1 } }).wf) =
    (false, true) := by decide
theorem test_reserved_opcode : decodeWord false (BitVec.ofNat 64 (0x0B0 * 2 ^ 54)) = none := by decide
theorem test_ill_formed_word_is_refused : decodeWord false 0xB480000000000001 = none := by decide

/-! ### Words that the spec prints -/

/-- The example of R124. -/
theorem test_decode_vadd : decodeWord false 0x2002040400001F00 =
    some (.vadd { zR with pred := 2, dst := 4, sa := 4, bs := 7, bv := 1, bpos := 2 }) := by decide
theorem test_decode_vfma : decodeWord false 0x28C0030802030020 = some (.vfma { zR with dst := 3, sa := 8, sb := 2, sc := 3, rm := 1 }) := by decide
theorem test_decode_bari : decodeWord false 0x0600003F00000205 = some (.bari { zI with sa := 63, imm := 0x205 }) := by decide
theorem test_decode_bars : decodeWord false 0x06C0000000000005 = some (.bars { zI with imm := 5 }) := by decide
theorem test_decode_vpack : decodeWord false 0x4840090304430002 = some (.vpack { zR with dst := 9, sa := 3, sb := 4, sc := 0x43, md := 2 }) := by decide
theorem test_decode_vqnt : decodeWord false 0x48C00A04F000FF08 =
    some (.vqhist { zR with dst := 10, sa := 4, sb := 0xF0, bs := 63, bv := 1, bpos := 2, md := 8 }) := by decide
theorem test_decode_lda : decodeWord false 0x6080061222000082 =
    some (.lda { zM with dst := 6, base := 4, scope := 4, ord := 1, md := 2, off := 130 }) := by decide
theorem test_decode_stl : decodeWord false 0x60C03F1240000000 = some (.stl { zM with dst := 63, base := 4, scope := 4, ord := 2 }) := by decide
theorem test_decode_at : decodeWord false 0x6240091227000000 =
    some (.at { zM with dst := 9, base := 4, scope := 4, ord := 1, md := 7 }) := by decide
theorem test_decode_waitc : decodeWord false 0x65000612A0000000 =
    some (.waitc { zM with dst := 6, base := 4, scope := 5, ord := 1 }) := by decide
theorem test_decode_cpy : decodeWord false 0x6540001716100000 = some (.cpy { zR with sa := 23, sb := 22, sc := 16 }) := by decide
theorem test_decode_waitb : decodeWord false 0x66481C1B00000007 = some (.waitbT { zI with ty := 1, dst := 28, sa := 27, imm := 7 }) := by decide
theorem test_decode_mma : decodeWord false 0x80080218417F0000 =
    some (.mma { zX with ty := 1, dst := 2, fb := 6, ta := 4, tb := 5, ps := 63 }) := by decide
theorem test_decode_mma_remote : decodeWord false 0x80080038233F4000 =
    some (.mma { zX with ty := 1, fb := 14, ta := 2, tb := 12, ps := 63, rb := 1 }) := by decide
theorem test_decode_daff : decodeWord false 0x9240030203004380 =
    some (.daff { zR with dst := 3, sa := 2, sb := 3, bs := 16, bv := 1, bpos := 3 }) := by decide
theorem test_decode_dadd : decodeWord false 0x9100040303000000 = some (.dadd { zR with dst := 4, sa := 3, sb := 3 }) := by decide
theorem test_decode_dqnt : decodeWord false 0x9400140300002700 =
    some (.dqnt { zR with dst := 20, sa := 3, bs := 9, bv := 1, bpos := 2 }) := by decide
theorem test_decode_rput : decodeWord false 0xA000001282000000 = some (.rput { zM with base := 4, scope := 5, md := 2 }) := by decide
theorem test_decode_vrdcm : decodeWord false 0xA140011E1F010000 = some (.vrdcm { zR with dst := 1, sa := 30, sb := 31, sc := 1 }) := by decide
theorem test_decode_tkrd : decodeWord false 0xB0000E0000000006 = some (.tkrd { zS with dst := 14, imm := 6 }) := by decide
theorem test_decode_tkrsv : decodeWord false 0xB040050001800000 = some (.tkrsv { zS with dst := 5, ss := 6 }) := by decide
theorem test_decode_cue : decodeWord false 0xB080150002C00000 = some (.cue { zS with dst := 21, ss := 11 }) := by decide
theorem test_decode_blst : decodeWord false 0xB0C0050001800000 = some (.blst { zS with dst := 5, ss := 6 }) := by decide
theorem test_decode_trap : decodeWord false 0xB400000001C00015 = some (.trap { zS with ss := 7, imm := 0x15 }) := by decide
theorem test_decode_sysc : decodeWord false 0xB440050012000000 = some (.syscFrec { zS with dst := 5, sys := 1, ss := 8 }) := by decide
theorem test_decode_eret : decodeWord false 0xB480000000000000 = some .eret := by decide
theorem test_decode_halt : decodeWord false 0xB4C0000000000000 = some .halt := by decide
/-- A BRA with offset 0 (R139). -/
theorem test_decode_bra_offset : decodeWord false (BitVec.ofNat 64 (1 * 2 ^ 54)) = some (.bra zB) := by decide
/-- The header of R124: class 1, one word, price 300, no entry waits. -/
theorem test_header : (hdrTag 0xE10004B3FFF00000, hdrClass 0xE10004B3FFF00000, hdrCount 0xE10004B3FFF00000, hdrPrice 0xE10004B3FFF00000,
    hdrWbar 0xE10004B3FFF00000, hdrWbatch 0xE10004B3FFF00000, headerFault 0xE10004B3FFF00000) = (14, 1, 0, 300, 127, 127, none) := by decide
theorem test_table_word : decodeTableWord 64 0xB4C0000000000000 = some .halt := by decide
theorem test_encode_vpack : encode (.vpack { zR with dst := 9, sa := 3, sb := 4, sc := 0x43, md := 2 }) = some (false, 0x4840090304430002) := by decide
/-- The pair word of the example of R118: `cfma.f32 v8, v1, v2 || cadd.i32 v9, v1, v2`. -/
theorem test_decode_pair : decodeWord true 0x040901024D080102 =
    some (.pairWord { hi := { cop := 1, ct := 0, cd := 9, ca := 1, cb := 2 }, lo := { cop := 0x13, ct := 1, cd := 8, ca := 1, cb := 2 } }) := by decide

/-! ### Single steps -/

/-- Scalar n after a word, from scalars 3, 4 and 5. -/
def scalar (i : Instr) (a b c : Word) (n : Nat) (x : Word) : Bool :=
  nextIs (exec i (withS (withS (withS demo 3 a) 4 b) 5 c)) (fun t => (t.crew? 0).any (fun k => k.rs n == x))
/-- Fields s6, s3, s4, s5. -/
def sR : FieldsR := { zR with dst := 6, sa := 3, sb := 4, sc := 5 }

/-- The results that R158 prints. -/
theorem test_div : allOf [scalar (.div sR) 7 (-2) 0 6 (-3), scalar (.div sR) (-7) 2 0 6 (-3), scalar (.div sR) 9 0 0 6 (-1),
    scalar (.div { sR with ty := 1 }) 9 0 0 6 (-1), scalar (.div sR) 0x8000000000000000 (-1) 0 6 0x8000000000000000,
    scalar (.div { sR with ty := 2 }) 0x80000000 0xFFFFFFFF 0 6 0xFFFFFFFF80000000] = true := by decide
theorem test_rem : allOf [scalar (.rem sR) 7 (-2) 0 6 1, scalar (.rem sR) (-7) 2 0 6 (-1), scalar (.rem sR) 9 0 0 6 9,
    scalar (.rem sR) 0x8000000000000000 (-1) 0 6 0] = true := by decide
theorem test_add_wraps : allOf [scalar (.add { sR with ty := 3 }) 0xFFFFFFFF 1 0 6 0,
    scalar (.add { sR with ty := 2 }) 0x7FFFFFFF 1 0 6 0xFFFFFFFF80000000] = true := by decide
theorem test_mulh : allOf [scalar (.mulh sR) (-1) 1 0 6 (-1), scalar (.mulh { sR with ty := 1 }) 0x8000000000000000 4 0 6 2] = true := by decide
theorem test_shifts : allOf [scalar (.shl sR) 1 65 0 6 2, scalar (.sar { sR with ty := 2 }) (-5) 1 0 6 (-3)] = true := by decide
theorem test_clz : scalar (.clz { sR with ty := 3, sb := 0 }) 0 0 0 6 32 = true := by decide
theorem test_bfe : allOf [scalar (.bfe sR) 0xF0 0x0404 0 6 (-1), scalar (.bfe { sR with ty := 1 }) 0xF0 0x0844 0 6 0] = true := by decide
/-- A field of 8 bits at bit 4 is replaced; the source is the destination too. -/
theorem test_bfi : scalar (.bfi { sR with dst := 3, ty := 1 }) 0xFFFFFF 0x12 0x0804 3 0xFFF12F = true := by decide
theorem test_sel_full_width : scalar (.sel { sR with ty := 3 }) 0x100000000 7 9 6 7 = true := by decide
theorem test_movh_keeps_low : scalar (.movh { zI with dst := 3, imm := 0x12345678 }) 0x9ABCDEF0 0 0 3 0x123456789ABCDEF0 = true := by decide
theorem test_adda_negative : scalar (.adda { zI with dst := 6, sa := 3, imm := 0xFFFFFFFF }) 5 0 0 6 4 = true := by decide
theorem test_s63_is_zero : scalar (.mov { sR with dst := 63, sb := 0, sc := 0 }) 7 0 0 63 0 = true := by decide
/-- k0 reads as all lanes and keeps nothing (R62). -/
theorem test_k0 : nextIs (exec (.kmovS { zR with dst := 0, sa := 3, md := 1 }) (withS demo 3 5)) (fun t =>
    (t.crew? 0).any (fun c => c.rk 0 == BitVec.allOnes 64)) = true := by decide

/-- Only lane 0 executes. -/
def oneLane (s : State) : State := withP s (fun p => { p with side := { p.side with exm := 1 } })
/-- Vector n of lane 0. -/
def withV (s : State) (n x : Nat) : State := withC s (fun c => c.wrNat .vec n 0 4 x)
def laneIs (o : Host.Outcome State Fault Refusal) (n x : Nat) : Bool := nextIs o (fun t => (t.crew? 0).any (fun c => c.rdNat .vec n 0 4 == x))
/-- The flags raised. -/
def flagsAre (o : Host.Outcome State Fault Refusal) (x : Word) : Bool := nextIs o (fun t => (t.crew? 0).any (fun c => c.sys.fpxf == x))

/-- The example of R176: a tie to the even body and a saturated element; the other bytes are kept. -/
theorem test_vpack : laneIs (exec (.vpack { zR with dst := 9, sa := 3, sb := 4, sc := 0x43, md := 2 })
    (withV (withV (withV (oneLane demo) 3 0x3F84) 4 0xC600) 9 0x1234)) 9 0xFF401234 = true := by decide
theorem test_vadd_bytes_wrap : laneIs (exec (.vadd { zR with ty := 4, dst := 9, sa := 3, sb := 4 })
    (withV (withV (oneLane demo) 3 0xFF7F01FF) 4 0x01010101)) 9 0x00800200 = true := by decide
theorem test_vadd_saturates : laneIs (exec (.vadd { zR with ty := 0, dst := 9, sa := 3, sb := 4, md := 1 })
    (withV (withV (oneLane demo) 3 0x7FFFFFFF) 4 1)) 9 0x7FFFFFFF = true := by decide
/-- 1 + 2^-24 is a tie, and rounds to even (R79). -/
theorem test_vfadd_tie : laneIs (exec (.vfadd { zR with dst := 9, sa := 3, sb := 4 })
    (withV (withV (oneLane demo) 3 0x3F800000) 4 0x33800000)) 9 0x3F800000 = true := by decide
theorem test_vfma_exact : laneIs (exec (.vfma { zR with dst := 9, sa := 3, sb := 4, sc := 5 })
    (withV (withV (withV (oneLane demo) 3 0x40000000) 4 0x40400000) 5 0xC0C00000)) 9 0 = true := by decide
/-- The canonical NaN of infinity less infinity (R80). -/
theorem test_vfsub_invalid : laneIs (exec (.vfsub { zR with dst := 9, sa := 3, sb := 3 }) (withV (oneLane demo) 3 0x7F800000)) 9 0x7FC00000 = true := by
  decide
theorem test_masked_lane_kept : laneIs (exec (.vadd { zR with pred := 1, dst := 9, sa := 3, sb := 3 }) (withV (withV (oneLane demo) 3 5) 9 8)) 9 8 = true := by
  decide
/-- A pair word whose halves write one bank traps, with no effect (R118). -/
theorem test_pair_bank : nextIs (exec (.pairWord { hi := { cop := 1, ct := 0, cd := 12, ca := 1, cb := 2 }, lo := { cop := 1, ct := 0, cd := 8, ca := 1, cb := 2 } })
    (oneLane demo)) (fun t => (t.crew? 0).any (fun c => c.rdNat .vec 8 0 4 == 0 && c.lastRec.isSome)) = true := by decide

/-! ### Memory -/

/-- A sign-extended byte at an odd address. -/
theorem test_ld_i8 : nextIs (exec (.ld { aM with md := 7, off := 3 }) (poke dm 0x100000 0x80000000)) (fun t =>
    (t.crew? 0).any (fun c => c.rs 10 == 0xFFFFFFFFFFFFFF80)) = true := by decide
/-- A store of two bytes leaves those beside it, and is seen by its own core before it is published (R196, R199). -/
theorem test_st_n16 : nextIs (exec (.st { aM with md := 2, off := 2 }) (withS (poke dm 0x100000 0x1122334455667788) 10 0xABCD)) (fun t =>
    (List.range 8).map (fun k => (t.plainByte 0 (0x100000 + k)).toNat) == [0x88, 0x77, 0xCD, 0xAB, 0x44, 0x33, 0x22, 0x11] &&
    Memory.readNat t.g 0x100000 8 == 0x1122334455667788) = true := by decide
/-- An exchange answers the old value and leaves the new one in G (R223). -/
theorem test_at_xchg : nextIs (exec (.at { aM with md := 7, scope := 4 }) (withS (poke dm 0x100000 6) 10 9)) (fun t =>
    (t.crew? 0).any (fun c => c.rs 10 == 6) && Memory.readNat t.g 0x100000 8 == 9) = true := by decide
theorem test_acas_differs : nextIs (exec (.acas { aM with off := 0x0B0000, scope := 4 }) (withS (withS (poke dm 0x100000 6) 10 9) 11 5)) (fun t =>
    (t.crew? 0).any (fun c => c.rs 10 == 6) && Memory.readNat t.g 0x100000 8 == 6) = true := by decide
/-- A misaligned atomic is the misalignment trap, TRAPC class 7 (R223, R349). -/
theorem test_at_misaligned : nextIs (exec (.at { aM with off := 4 }) dm) (fun t =>
    (t.crew? 0).any (fun c => c.lastRec.any (fun r => word8 (wordBytes (r.words 0)) 8 % 256 == 7))) = true := by decide
/-- R315: an 8-byte exchange of another package on the wake register of queue 7 is a wake store. -/
theorem test_remote_wake : nextIs (exec (.remoteAtomic { anAtom with addr := 0x01FFFFFFFF800038, op := 7, x := 9 }) demo) (fun t =>
    t.inbox == [.wakeStore 7 8 true 9] && !(t.queue 7).werr) = true := by decide

/-! ### Control -/

/-- The last round of a LOOP leaves 0 in its counter (R142). -/
theorem test_loop_last : nextIs (exec (.loop { zB with d := 3, off := 0xFFFF }) (withS demo 3 1)) (fun t =>
    (t.crew? 0).any (fun c => c.rs 3 == 0)) = true := by decide
/-- EXIT of the only lanes ends the crew (R146). -/
theorem test_exit : nextIs (exec (.exit zI) demo) (fun t => (t.crew? 0).any (fun c => c.live == 0 && c.state == .ending)) = true := by decide

/-! ### Cues -/

/-- The example of R337: packages 3, 5 and 9 of a group of budget 256 take 1,000; 1,000 and 1,001; 1,001 and 1,002. -/
theorem test_cue_group : (admitAll 256 ([(5, 2), (9, 2), (3, 1)].map (fun q =>
    ({ msg := { group := 7, src := BitVec.ofNat 32 q.1, start := 1000, rise := 128, dur := q.2 }, at_ := none } : CueEntry))) 1000).map (fun e => e.at_) =
    [some 1000, some 1001, some 1000] := by decide

end Sys2Proof.Tests
end

/-! Scalars (R61) and the INT8 product (R93, R248 to R250): what the model's operations on them do, and the obligations that
follow. -/

namespace Sys2Proof.Machine

/-! ### Scalars (R61) -/

/-- The model's replacement in a list is the library's. -/
theorem setAt_eq_set {α : Type} (l : List α) (i : Nat) (y : α) : setAt l i y = l.set i y := by
  induction l generalizing i with
  | nil => rfl
  | cons x r ih =>
    cases i with
    | zero => rfl
    | succ i => simp [setAt, ih]

@[simp] theorem Crew.rs_63 (c : Crew) : c.rs 63 = 0 := rfl
@[simp] theorem Crew.ws_63 (c : Crew) (v : Word) : c.ws 63 v = c := rfl

theorem Crew.rs_of_ne {n : Nat} (c : Crew) (hn : n ≠ 63) : c.rs n = c.s.getD n 0 := if_neg hn

theorem Crew.ws_s_of_ne {n : Nat} (c : Crew) (v : Word) (hn : n ≠ 63) : (c.ws n v).s = c.s.set n v := by
  rw [Crew.ws, if_neg hn, setAt_eq_set]

@[simp] theorem Crew.ws_s_length (c : Crew) (n : Nat) (v : Word) : (c.ws n v).s.length = c.s.length := by
  by_cases hn : n = 63
  · rw [hn, Crew.ws_63]
  · rw [Crew.ws_s_of_ne c v hn, List.length_set]

theorem Crew.rs_ws_same {c : Crew} {n : Nat} (v : Word) (hn : n ≠ 63) (hl : n < c.s.length) : (c.ws n v).rs n = v := by
  rw [Crew.rs_of_ne _ hn, Crew.ws_s_of_ne c v hn, List.getD_eq_getElem?_getD, List.getElem?_set_self hl, Option.getD_some]

theorem Crew.rs_ws_other (c : Crew) {n m : Nat} (v : Word) (hm : m ≠ n) : (c.ws n v).rs m = c.rs m := by
  by_cases hn : n = 63
  · rw [hn, Crew.ws_63]
  by_cases hm3 : m = 63
  · rw [hm3, Crew.rs_63, Crew.rs_63]
  · simp only [Crew.rs_of_ne _ hm3, Crew.ws_s_of_ne c v hn, List.getD_eq_getElem?_getD, List.getElem?_set_ne hm.symm]

@[simp] theorem startScalars_length (karg arg : Word) (core : Nat) (p : Place) : (startScalars karg arg core p).length = 64 := by
  simp [startScalars]

/-- Settles O8: reading after writing by the cases of Crew.rs and Crew.ws, and the length of the start scalars. -/
theorem scalarsHoldWhatIsWritten : Obligations.ScalarsHoldWhatIsWritten := by
  refine ⟨fun c v => ⟨c.rs_63, c.ws_63 v⟩, fun c n m v hn hl => ?_, fun _ g core p _ arg _ _ _ _ => ?_⟩
  · exact ⟨Crew.rs_ws_same v hn hl, Crew.rs_ws_other c v, c.ws_s_length n v⟩
  · exact startScalars_length g.rcb.karg arg core p

/-! ### The elements of an accumulator as bytes -/

theorem ofBytes_lt (l : List Byte) : ofBytes l < 256 ^ l.length := by
  induction l with
  | nil => simp [ofBytes]
  | cons b r ih =>
    have hb := b.isLt
    rw [ofBytes, List.length_cons, pow_succ]
    omega

theorem patternAt_lt (b : Array Byte) (w i : Nat) : patternAt b w i < 256 ^ w := by
  simpa [patternAt] using ofBytes_lt ((List.range w).map (fun j => b.getD (i * w + j) 0))

/-- In a string of pieces of w items each, item j of piece i stands at i * w + j. -/
theorem getElem?_flatMap_append {α β : Type} {f : α → List β} {w : Nat} (hf : ∀ x, (f x).length = w) (xs : List α) (t : List β)
    {i j : Nat} (hi : i < xs.length) (hj : j < w) : (xs.flatMap f ++ t)[i * w + j]? = (f xs[i])[j]? := by
  induction xs generalizing i with
  | nil => cases hi
  | cons x r ih =>
    rw [List.flatMap_cons, List.append_assoc]
    cases i with
    | zero => rw [Nat.zero_mul, Nat.zero_add, List.getElem?_append_left (by rwa [hf]), List.getElem_cons_zero]
    | succ i =>
      have hk : (i + 1) * w + j - w = i * w + j := by rw [Nat.add_mul]; omega
      rw [List.getElem?_append_right (by rw [hf, Nat.add_mul]; omega), hf, hk, ih (Nat.lt_of_succ_lt_succ hi),
        List.getElem_cons_succ]

/-- Elements laid down with w bytes each read back, cut to their bytes. -/
theorem patternAt_flatMap_toBytes {α : Type} (f : α → Nat) (w : Nat) (xs : List α) (t : List Byte) {i : Nat} (hi : i < xs.length) :
    patternAt (xs.flatMap (fun x => toBytes w (f x)) ++ t).toArray w i = f xs[i] % 256 ^ w := by
  rw [← ofBytes_toBytes, patternAt]
  congr 1
  apply List.ext_getElem
  · simp
  · intro j hj _
    have hw : j < w := by simpa using hj
    have h := getElem?_flatMap_append (fun x => toBytes_length w (f x)) xs t hi hw
    simp [h, hw]

/-- What a run leaves in the accumulator holds the pattern of every element. -/
theorem SliceRun.patternAt_bytesOf (run : SliceRun) (o : FieldsX) (cs : List ArrayCell) {i : Nat} (hi : i < cs.length) :
    patternAt (run.bytesOf o cs).toArray (accBytes o.ty) i = cs[i].out % 256 ^ accBytes o.ty :=
  patternAt_flatMap_toBytes ArrayCell.out _ cs _ hi

/-! ### The elements that a product forms (R93, R248, R250) -/

/-- The INT8 product is the sum modulo 2^32 (R93). -/
theorem intDot_eq (c : Nat) (xs : List (Nat × Nat)) :
    intDot c xs = ((sextInt 32 c + (xs.map intProduct).sum) % (2 ^ 32 : Int)).toNat := by
  have hsum (z : Int) : xs.foldl (fun acc q => acc + intProduct q) z = z + (xs.map intProduct).sum := by
    induction xs generalizing z with
    | nil => simp
    | cons q r ih => rw [List.foldl_cons, ih, List.map_cons, List.sum_cons, add_assoc]
  rw [intDot, hsum]
  rfl

theorem intDot_lt (c : Nat) (xs : List (Nat × Nat)) : intDot c xs < 2 ^ 32 := by
  rw [intDot_eq]
  omega

@[simp] theorem shapeM_int8 : shapeM 3 = 32 := rfl
@[simp] theorem shapeK_int8 : shapeK 3 = 64 := rfl
@[simp] theorem accBytes_int8 : accBytes 3 = 4 := rfl

/-- The four slices together hold every k of the product (R262): the limit alone is left. -/
theorem filter_allSlices (k lim : Nat) :
    (List.range k).filter (fun j => decide (0 * k / 4 ≤ j) && decide (j < 4 * k / 4) && decide (j < lim)) =
      (List.range k).filter (fun j => decide (j < lim)) := by
  apply List.filter_congr
  intro j hj
  have hk : j < k := List.mem_range.1 hj
  simp [hk]

section Cells

variable (run : SliceRun) (o : FieldsX) (pr : Product) (ta tb : List Byte) {i : Nat}

@[simp] theorem SliceRun.cells_length (lo hi : Nat) : (run.cells o pr ta tb lo hi).length = shapeM o.ty * shapeM o.ty := by
  simp [SliceRun.cells]

/-- An element outside the limits keeps its value (R249). -/
theorem SliceRun.cells_out_outside (hi : Nat) (h : i < (run.cells o pr ta tb 0 hi).length)
    (hlim : run.lim.1 ≤ i / shapeM o.ty ∨ run.lim.2.1 ≤ i % shapeM o.ty) :
    (run.cells o pr ta tb 0 hi)[i].out = patternAt run.acc0.toArray (accBytes o.ty) i := by
  simp [SliceRun.cells, hlim]

/-- A masked element within the limits is the constant (R250). -/
theorem SliceRun.cells_out_masked (lo hi : Nat) (h : i < (run.cells o pr ta tb lo hi).length)
    (hlim : ¬ (run.lim.1 ≤ i / shapeM o.ty ∨ run.lim.2.1 ≤ i % shapeM o.ty))
    (hmask : maskedAt pr run.ps (i / shapeM o.ty) (i % shapeM o.ty) = true) :
    (run.cells o pr ta tb lo hi)[i].out = fillPattern o.ty run.ps := by
  simp [SliceRun.cells, hlim, hmask]

/-- Any other element of a whole INT8 product is its dot product (R93). -/
theorem SliceRun.cells_out_int8 (h : i < (run.cells o pr ta tb 0 4).length) (hty : o.ty = 3) (hpr : pr ≠ .weights)
    (hlim : ¬ (run.lim.1 ≤ i / 32 ∨ run.lim.2.1 ≤ i % 32)) (hmask : maskedAt pr run.ps (i / 32) (i % 32) = false) :
    (run.cells o pr ta tb 0 4)[i].out = intDot (if o.mode = 1 then 0 else patternAt run.acc0.toArray 4 i)
      (((List.range 64).filter (fun k => decide (k < run.lim.2.2))).map (fun k =>
        ((ta.getD (i / 32 * 64 + k) 0).toNat, (tb.getD (i % 32 * 64 + k) 0).toNat))) := by
  simp only [SliceRun.cells, List.getElem_map, List.getElem_range, hty, shapeM_int8, shapeK_int8, accBytes_int8,
    filter_allSlices, hpr, hlim, hmask, SliceRun.heldCell_zero, Option.getD_none, if_true, if_false, and_true,
    Bool.false_eq_true, Array.getD_eq_getD_getElem?, List.getElem?_toArray, List.getD_eq_getElem?_getD]

end Cells

/-- Settles O45: the bytes that a run leaves read back as its elements, and each element is one of the three branches of
SliceRun.cells, outside the limits, masked, or summed. -/
theorem matrixIntegers : Obligations.MatrixIntegers := by
  intro run o pr ta tb m n hty hpr _ hm hn _ old new
  have hshape : shapeM o.ty = 32 := by rw [hty, shapeM_int8]
  have hw : accBytes o.ty = 4 := by rw [hty, accBytes_int8]
  have hrow : (32 * m + n) / 32 = m := by omega
  have hcol : (32 * m + n) % 32 = n := by omega
  have hlen : 32 * m + n < (run.cells o pr ta tb 0 4).length := by rw [SliceRun.cells_length, hshape]; omega
  have hnew : new = (run.cells o pr ta tb 0 4)[32 * m + n].out % 2 ^ 32 := by
    have h := run.patternAt_bytesOf o _ hlen
    rwa [hw] at h
  have hlim (hr : m < run.lim.1) (hc : n < run.lim.2.1) : ¬ (run.lim.1 ≤ m ∨ run.lim.2.1 ≤ n) := by omega
  refine ⟨fun hout => ?outside, fun hr hc hmask => ?masked, fun hr hc hmask => ?summed⟩
  case outside =>
    rw [hnew, run.cells_out_outside o pr ta tb 4 hlen (by rwa [hshape, hrow, hcol]), hw]
    exact Nat.mod_eq_of_lt (patternAt_lt _ 4 _)
  case masked =>
    rw [hnew, run.cells_out_masked o pr ta tb 0 4 hlen (by rw [hshape, hrow, hcol]; exact hlim hr hc)
      (by rwa [hshape, hrow, hcol]), hty]
    exact Nat.mod_mod _ _
  case summed =>
    rw [hnew, run.cells_out_int8 o pr ta tb hlen hty hpr (by rw [hrow, hcol]; exact hlim hr hc) (by rwa [hrow, hcol]),
      Nat.mod_eq_of_lt (intDot_lt _ _), intDot_eq, hrow, hcol, Nat.mul_comm m, Nat.mul_comm n, List.map_map, apply_ite (sextInt 32)]
    rfl

end Sys2Proof.Machine

/-! Uniform transfers (R140, R141) and BARI (R154): the ways in which a taken word ends, and the obligations that follow. -/

namespace Sys2Proof.Machine

/-! ### How a taken word ends -/

section Ends
variable {i : Instr} {s t : State} {f : Env → Res} {e : Env}

/-- A taken word whose meaning is an effect completes from the state it gives. -/
theorem exec_finishes (hx : exec i s = runWord i s f) (he : s.taken i = some e) (hf : f e = .ok t) :
    exec i s = .next (e.finish i t) := by
  rw [hx, runWord_taken f he, hf, Env.conclude]

/-- A taken word whose meaning is a jump takes its path to the target. -/
theorem exec_leaves {next : Word} (hx : exec i s = runWord i s f) (he : s.taken i = some e) (hf : f e = .jump t next) :
    exec i s = .next (e.leave i t next) := by
  rw [hx, runWord_taken f he, hf, Env.conclude]

/-- A taken word whose meaning is a trap delivers it to its path. -/
theorem exec_traps {x : Trap} (hx : exec i s = runWord i s f) (he : s.taken i = some e) (hf : f e = .trap t x) :
    exec i s = .next (t.takeTrap e.r x) := by
  rw [hx, runWord_taken f he, hf, Env.conclude]

/-- The state that a taken word sees is the one it is taken in. -/
theorem State.taken_state (he : s.taken i = some e) : e.s = s := (State.taken_crew he).1

end Ends

/-! ### Targets and conditions (R136, R140, R141) -/

/-- The model's signed reading of a full field is the library's. -/
theorem sextInt_toNat {n : Nat} (x : BitVec n) : sextInt n x.toNat = x.toInt := by
  rcases Nat.eq_zero_or_pos n with rfl | hn
  · simp [sextInt, BitVec.toInt_zero_length]
  · have hpow : 2 ^ n = 2 * 2 ^ (n - 1) := by rw [← pow_succ', Nat.sub_add_cancel hn]
    simp only [sextInt, hn.ne', if_false, Nat.mod_eq_of_lt x.isLt, BitVec.toInt_eq_toNat_cond, Int.ofNat_eq_natCast]
    split <;> split <;> omega

/-- A target is its offset in words from the header (R136). -/
theorem target_eq (h : Word) (off : BitVec 32) : target h 32 off.toNat = h + 8 * off.signExtend 64 := by
  rw [target, sextInt_toNat, BitVec.ofInt_mul, BitVec.signExtend]
  rfl

/-- The six conditions of BRC, each with the mode that selects it (R140). -/
theorem brcCond_iff (m : Nat) (x y : Word) :
    brcCond m x y = true ↔ (m = 0 ∧ x = y) ∨ (m = 1 ∧ x ≠ y) ∨ (m = 2 ∧ x.toInt < y.toInt) ∨
      (m = 3 ∧ y.toInt ≤ x.toInt) ∨ (m = 4 ∧ x.toNat < y.toNat) ∨ (5 ≤ m ∧ y.toNat ≤ x.toNat) := by
  match m with
  | 0 | 1 | 2 | 3 | 4 | _ + 5 => simp [brcCond]

theorem jumpTo_aligned {o : FieldsR} {e : Env} (h : 8 ∣ (e.v.rs o.sa.toNat).toNat) :
    jumpTo o e = .jump e.s (e.v.rs o.sa.toNat) :=
  if_neg (not_not.mpr (Nat.mod_eq_zero_of_dvd h))

theorem jumpTo_misaligned {o : FieldsR} {e : Env} (h : ¬ 8 ∣ (e.v.rs o.sa.toNat).toNat) :
    jumpTo o e = .trap e.s (e.mkTrap 7 0 (e.v.rs o.sa.toNat) .word) :=
  if_pos (fun h0 => h (Nat.dvd_of_mod_eq_zero h0))

/-- Check 3 of R106 leaves BRC six conditions. -/
theorem brc_wf_false {o : FieldsB} (h : 6 ≤ o.ty.toNat) : (Instr.brc o).wf = false := by
  have hty : decide (o.ty.toNat ≤ 5) = false := decide_eq_false (by omega)
  have hwf : (Instr.brc o).wf =
      (decide (o.ty.toNat ≤ 5) && o.pred == 0 && decide (o.d.toNat < 64) && decide (o.e.toNat < 64)) := rfl
  simp [hwf, hty]

/-! ### The transfers, one by one -/

section Transfers
variable {s : State} {e : Env}

theorem exec_brc_taken {o : FieldsB} (he : s.taken (.brc o) = some e)
    (h : brcCond o.ty.toNat (e.v.rs o.d.toNat) (e.v.rs o.e.toNat) = true) :
    exec (.brc o) s = .next (e.leave (.brc o) s (e.p.side.pc + 8 * o.off.signExtend 64)) :=
  exec_leaves rfl he (by rw [if_pos h, target_eq, State.taken_state he, Env.h])

theorem exec_brc_not_taken {o : FieldsB} (he : s.taken (.brc o) = some e)
    (h : ¬ brcCond o.ty.toNat (e.v.rs o.d.toNat) (e.v.rs o.e.toNat) = true) :
    exec (.brc o) s = .next (e.finish (.brc o) s) :=
  exec_finishes rfl he (by rw [if_neg h, State.taken_state he])

theorem exec_loop_again {o : FieldsB} (he : s.taken (.loop o) = some e) (h : e.v.rs o.d.toNat - 1 ≠ 0) :
    exec (.loop o) s = .next (e.leave (.loop o) (s.ws e.r.crew o.d.toNat (e.v.rs o.d.toNat - 1))
      (e.p.side.pc + 8 * o.off.signExtend 64)) :=
  exec_leaves rfl he (by rw [if_pos h, target_eq, State.taken_state he, Env.h])

theorem exec_loop_done {o : FieldsB} (he : s.taken (.loop o) = some e) (h : e.v.rs o.d.toNat - 1 = 0) :
    exec (.loop o) s = .next (e.finish (.loop o) (s.ws e.r.crew o.d.toNat 0)) :=
  exec_finishes rfl he (by rw [h, if_neg (not_not.mpr rfl), State.taken_state he])

/-- A word whose meaning is jumpTo goes to its scalar's value where it is aligned, and traps where it is not. -/
theorem exec_jumpTo {i : Instr} {o : FieldsR} (hx : exec i s = runWord i s (jumpTo o)) (he : s.taken i = some e) :
    (8 ∣ (e.v.rs o.sa.toNat).toNat → exec i s = .next (e.leave i s (e.v.rs o.sa.toNat))) ∧
    (¬ 8 ∣ (e.v.rs o.sa.toNat).toNat →
      exec i s = .next (s.takeTrap e.r (e.mkTrap 7 0 (e.v.rs o.sa.toNat) .word))) := by
  constructor <;> intro h
  · exact exec_leaves hx he (by rw [jumpTo_aligned h, State.taken_state he])
  · exact exec_traps hx he (by rw [jumpTo_misaligned h, State.taken_state he])

end Transfers

/-- Settles O21: each transfer is a jump, a completion or a trap of the word as its meaning says. -/
theorem uniformTransfers : Obligations.UniformTransfers := by
  intro s
  refine ⟨fun o e he => ?bra, fun o e he => ?join, fun o e he => ?call, fun o e he => ?brc, fun _ => brc_wf_false,
    fun o e he => ⟨exec_loop_again he, fun h => exec_loop_done he h⟩, fun o e he => exec_jumpTo rfl he,
    fun o e he => exec_jumpTo rfl he⟩
  case bra => exact exec_leaves rfl he (by rw [target_eq, State.taken_state he, Env.h])
  case join => exact exec_leaves rfl he (by rw [target_eq, State.taken_state he, Env.h])
  case call => exact exec_leaves rfl he (by rw [target_eq, State.taken_state he, Env.h, Env.n])
  case brc =>
    have hty (k : BitVec 3) : o.ty = k ↔ o.ty.toNat = k.toNat := BitVec.toNat_inj.symm
    intro x y cond
    have hcond : brcCond o.ty.toNat x y = true ↔ cond := by simp only [brcCond_iff, cond, hty]; rfl
    exact ⟨fun h => exec_brc_taken he (hcond.mpr h), fun h => exec_brc_not_taken he (mt hcond.mp h)⟩

/-! ### BARI (R154) -/

theorem fld_eq_div_mod {n : Nat} (x : BitVec n) (hi lo : Nat) : fld x hi lo = x.toNat / 2 ^ lo % 2 ^ (hi + 1 - lo) := by
  rw [fld, Nat.shiftRight_eq_div_pow]

/-- The field of BARI that names the barrier (R154). -/
theorem bari_number (imm : BitVec 32) : fld imm 6 0 = imm.toNat % 2 ^ 7 := by rw [fld_eq_div_mod, pow_zero, Nat.div_one]

/-- The field of BARI that holds the count (R154). -/
theorem bari_count (imm : BitVec 32) : fld imm 13 8 = imm.toNat / 2 ^ 8 % 2 ^ 6 := fld_eq_div_mod imm 13 8

section Bari
variable {o : FieldsI} {s : State} {e : Env} {b : Barrier} (he : s.taken (.bari o) = some e)
include he

theorem exec_bari_unbound (hb : s.barrier? e.c.core (o.imm.toNat % 2 ^ 7) = none) :
    exec (.bari o) s = .next (e.finish (.bari o) (s.setBarrier e.c.core (o.imm.toNat % 2 ^ 7)
      { region := e.c.region, expect := o.imm.toNat / 2 ^ 8 % 2 ^ 6, timeout := e.v.rs o.sa.toNat, next := none, gen := 0,
        count := 0, arrived := [], first := none, expired := false, exited := 0, pending := none })) :=
  exec_finishes rfl he (by simp only [State.taken_state he, bari_number, bari_count, hb])

variable (hb : s.barrier? e.c.core (o.imm.toNat % 2 ^ 7) = some b)
include hb

theorem exec_bari_own_fresh (hr : b.region = e.c.region) (hc : b.count = 0) :
    exec (.bari o) s = .next (e.finish (.bari o) (s.setBarrier e.c.core (o.imm.toNat % 2 ^ 7)
      { b with expect := o.imm.toNat / 2 ^ 8 % 2 ^ 6, timeout := e.v.rs o.sa.toNat, next := none })) :=
  exec_finishes rfl he (by simp only [State.taken_state he, bari_number, bari_count, hb, hr, hc, ne_eq, not_true, if_false, if_true])

theorem exec_bari_own_under_way (hr : b.region = e.c.region) (hc : b.count ≠ 0) :
    exec (.bari o) s = .next (e.finish (.bari o) (s.setBarrier e.c.core (o.imm.toNat % 2 ^ 7)
      { b with next := some (o.imm.toNat / 2 ^ 8 % 2 ^ 6, e.v.rs o.sa.toNat) })) :=
  exec_finishes rfl he (by simp only [State.taken_state he, bari_number, bari_count, hb, hr, hc, ne_eq, not_true, if_false])

theorem exec_bari_foreign (hr : b.region ≠ e.c.region) :
    exec (.bari o) s = .next (s.takeTrap e.r (e.barrierTrap (o.imm.toNat % 2 ^ 7) 3
      (s.barrierRecord e.c.core (o.imm.toNat % 2 ^ 7) 3 (some b)))) :=
  exec_traps rfl he (by simp only [State.taken_state he, bari_number, hb, ne_eq, hr, not_false_eq_true, if_true])

end Bari

/-- A count and a timeout set for the next generation are its own. -/
theorem Barrier.nextGen_of_next {b : Barrier} {x : Nat × Word} (h : b.next = some x) :
    b.nextGen.expect = x.1 ∧ b.nextGen.timeout = x.2 := by
  simp [Barrier.nextGen, h]

/-- With a timeout of 0 the expiry event finds nothing to do, whether or not a crew has arrived (R51, R154). -/
theorem exec_barrierTimeout_zero {s : State} {core n : Nat} {b : Barrier} (hb : s.barrier? core n = some b)
    (ht : b.timeout = 0) : exec (.barrierTimeout core n) s = .next s := by
  have hx : exec (.barrierTimeout core n) s = execBarrierTimeout core n s := rfl
  rw [hx, execBarrierTimeout, hb]
  cases h : b.first with
  | none => simp only [h]
  | some t0 => simp only [h, ht, true_or, if_true]

/-- Settles O39: the barrier is unbound, the region's own with no arrival or with some, or another region's. -/
theorem barrierSetting : Obligations.BarrierSetting := fun _ _ _ he =>
  ⟨exec_bari_unbound he, fun _ => exec_bari_own_fresh he, fun _ => exec_bari_own_under_way he,
    fun _ hb hr => ⟨_, rfl, rfl, exec_bari_foreign he hb hr⟩, fun _ _ _ => Barrier.nextGen_of_next,
    fun _ _ => exec_barrierTimeout_zero⟩

end Sys2Proof.Machine

/-! TRAP and HALT (R357): the trap that a word raises of its own accord, and the debug stop. -/

namespace Sys2Proof.Machine

section RaisedTraps
variable {i : Instr} {s t : State} {f : Env → Res} {e : Env}

/-- A taken word that has placed its path itself leaves exactly the state it gives: the path does not go on. -/
theorem exec_places (hx : exec i s = runWord i s f) (he : s.taken i = some e) (hf : f e = .done t) :
    exec i s = .next t := by
  rw [hx, runWord_taken f he, hf, Env.conclude]

/-- A taken word that raises class 13 with a code and a value, and resumes after itself. -/
theorem exec_raises {val : Word} {code : Nat} (hx : exec i s = runWord i s f) (he : s.taken i = some e)
    (hf : f e = .trap e.s { e.mkTrap 13 0 val .after with code := code }) :
    exec i s = .next (s.takeTrap e.r
      { slate := s.slate, cls := 13, cause := 0, val := val, code := code, word := e.p.idx, inst := e.w, resume := .after,
        batch := none, bar := none }) :=
  exec_traps hx he (by rw [hf, Env.mkTrap, State.taken_state he])

theorem exec_halt_enabled (he : s.taken .halt = some e) (hen : s.dbg.hen = true) :
    exec .halt s = .next { s with dbg := { s.dbg with stopped := true } } :=
  exec_places rfl he (by rw [State.taken_state he, if_pos hen])

theorem exec_halt_disabled (he : s.taken .halt = some e) (hen : s.dbg.hen = false) :
    exec .halt s = .next (s.takeTrap e.r
      { slate := s.slate, cls := 13, cause := 0, val := 0, code := 0x3FFFFF, word := e.p.idx, inst := e.w, resume := .after,
        batch := none, bar := none }) :=
  exec_raises rfl he (if_neg (by rw [State.taken_state he, hen]; exact Bool.false_ne_true))

end RaisedTraps

/-- Settles O24: TRAP, and HALT without HEN, raise class 13 and resume after the word; HALT with HEN is a debug stop. -/
theorem trapAndHalt : Obligations.TrapAndHalt :=
  ⟨fun _ _ _ he => exec_raises rfl he rfl, fun _ _ he => ⟨exec_halt_enabled he, exec_halt_disabled he⟩⟩

end Sys2Proof.Machine
